-- ==== Sys2Proof/Word.lean ====
section
/-! DEFINITION. The words of the core's fixed-width formats (30_encoding.md R70, R9), as bit vectors. The
widths stand here once; bit 0 is the least significant bit of a word. A frame is the one exception of R10:
bit i of the 104-bit word is frame slot i, so its index is a position, not a significance (R79). -/

namespace Sys2Proof

/-- A timestamp, an interval or a threshold in µs: `TS_WIDTH` = 32 bits (00_scope.md R7). -/
abbrev Ts := BitVec 32

/-- EVW: an edge event on the input port, `TS_WIDTH` + 1 bits (R71). -/
abbrev EvWord := BitVec 33

/-- EDW: the decode word (R74). -/
abbrev Edw := BitVec 7

/-- NIB: one nibble of a frame (R76). -/
abbrev Nib := BitVec 4

/-- FRM: a frame, bit i = `FRAME[i]` (R79). -/
abbrev Frame := BitVec 104

/-- TMP: the two's-complement word of a reading (R78). -/
abbrev Temp := BitVec 16

end Sys2Proof
end

