-- ==== Sys2Proof/Config.lean ====
section
/-! DEFINITION. The parameters of 00_scope.md R7: the named constants this hardware fixes, the configuration
surface `CFG` (10_state.md R30), the launch parameters the spec leaves OPEN, and the one free value. -/

namespace Sys2Proof

/-! Named constants (R7; 93_implementation_defined.md item 15). -/

/-- `FRAME_BITS`: the slots of a frame. -/
abbrev Config.frameBits : Nat := 104
/-- `FRAME_DATA_BITS`: the slots that are written, 1..103. -/
abbrev Config.frameDataBits : Nat := 103
/-- `NIBBLES`: the nibbles of a frame. -/
abbrev Config.nibbles : Nat := 26
/-- `P1_OFFSET`: the first nibble of the probe-1 window. -/
abbrev Config.p1Offset : Nat := 8
/-- `P2_OFFSET`: the first nibble of the probe-2 window. -/
abbrev Config.p2Offset : Nat := 13
/-- `PROBE_DIGITS`: the nibbles of a probe window. -/
abbrev Config.probeDigits : Nat := 5
/-- `CAL_OFFSET`: the calibration constant subtracted. -/
abbrev Config.calOffset : Int := 532
/-- `TEMP_WIDTH`: the width of a reading. -/
abbrev Config.tempWidth : Nat := 16
/-- `TS_WIDTH`: the width of a timestamp. -/
abbrev Config.tsWidth : Nat := 32
/-- `TWO_MAX`'s default, the one default the source determines (R8). -/
abbrev Config.twoMaxDefault : Ts := 900

/-- `CFG`: the five thresholds in µs, in the order of 10_state.md R30. -/
structure Thresholds where
  oneMin : Ts
  oneMax : Ts
  twoMax : Ts
  twentyMin : Ts
  twentyMax : Ts
deriving DecidableEq, Repr

/-- The test configuration `TC` (00_scope.md R8): a choice made for testing, no claim about the calibration. -/
def Thresholds.tc : Thresholds :=
  { oneMin := 150, oneMax := 375, twoMax := Config.twoMaxDefault, twentyMin := 4000, twentyMax := 6000 }

/-- The launch parameters that the spec leaves OPEN beside `CFG` (R7). No rule writes them. -/
structure Params where
  /-- `FIFO_DEPTH`: the capacity of `OUT_FIFO`; `none` = unbounded (R33). -/
  fifoDepth : Option Nat
  /-- `HAS_DEBUG`: whether the debug strobes exist (60_exceptions.md R215). -/
  hasDebug : Bool
deriving DecidableEq, Repr

/-- `PREV_TS_RESET`: the value of `PREV_TS` after reset, OPEN, a draw (R7; 10_state.md R24, R38; D5). FREE VALUE:
the n-th reset of a run draws `Config.prevTsReset n`, and nothing constrains it (DESIGN CHOICE, assumption 2). -/
opaque Config.prevTsReset : Nat → Ts

end Sys2Proof
end

