-- ==== Sys2Proof/Syntax.lean ====
section
/-! DEFINITION. The operations of the core as data: the names of states, classes and reports, the edge event,
and `Instr`, one constructor per row of spec/opcode_table.json. The don't-care bits of a row's decode word are
operands of its constructor, so an instruction keeps every bit of its word. -/

namespace Sys2Proof

/-- `STATE`, "one of {Idle, Preamble, Data}" and the reserved code 0b11 (10_state.md R21, 30_encoding.md R72). -/
inductive Psm where
  | idle
  | preamble
  | data
  /-- Code 0b11: no rule writes it (R82 a). -/
  | reserved
deriving DecidableEq, Repr

/-- The pulse-width classes in the order of 30_encoding.md R73; the codes 0b101 to 0b111 are never produced. -/
inductive PulseClass where
  | short
  | oneClock
  | twoClock
  | twentyClock
  | long
deriving DecidableEq, Repr

/-- `EV_STATUS`: the report of one decoder step (30_encoding.md R77). -/
inductive EvStatus where
  | none
  | preambleError
  | dataError
  | frameDone
deriving DecidableEq, Repr

/-- An edge event {timestamp, level after the transition} (00_scope.md R13, 30_encoding.md R71). -/
structure Evw where
  level : Bool
  ts : Ts
deriving DecidableEq, Repr

/-- The operations of spec/opcode_table.json, in the table's order. -/
inductive Instr where
  /-- TIMESTAMP (R100): every accepted event. -/
  | timestamp (ev : Evw)
  /-- EDGE (R101): every accepted event. -/
  | edgeBit (ev : Evw)
  /-- CLASSIFY (R102): every accepted event. -/
  | classify (ev : Evw)
  /-- IDLE_SYNC (R123). -/
  | idleSync (wait : Bool)
  /-- IDLE_STAY (R124). -/
  | idleStay (cls : BitVec 3) (edge wait : Bool)
  /-- PRE_FIRST_PAIR (R125). -/
  | preFirstPair (edge wait : Bool)
  /-- PRE_HALF (R126). -/
  | preHalf (wait : Bool)
  /-- PRE_RESYNC (R127). -/
  | preResync (wait : Bool)
  /-- PRE_ERROR (R128). -/
  | preError (cls : BitVec 3) (edge wait : Bool)
  /-- DATA_HALF (R130). -/
  | dataHalf (edge : Bool)
  /-- DATA_REPEAT (R131). -/
  | dataRepeat (edge : Bool)
  /-- DATA_TOGGLE (R132). -/
  | dataToggle (edge : Bool)
  /-- DATA_PAIR_ERROR (R133). -/
  | dataPairError (edge : Bool)
  /-- DATA_CLASS_ERROR (R134). -/
  | dataClassError (cls : BitVec 3) (edge wait : Bool)
  /-- RESERVED_STATE (R135). -/
  | reservedState (cls : BitVec 3) (edge wait : Bool)
  /-- COMPLETE as the sub-step of DATA_REPEAT (R136). -/
  | completeRepeat (edge : Bool)
  /-- COMPLETE as the sub-step of DATA_TOGGLE (R136). -/
  | completeToggle (edge : Bool)
  /-- NIBBLE_PACK (R160) of a frame. -/
  | nibblePack (frame : Frame)
  /-- DIGIT_0 (R163). -/
  | digit0
  /-- DIGIT_1 (R164). -/
  | digit1
  /-- DIGIT_2 (R165). -/
  | digit2
  /-- DIGIT_3 (R166). -/
  | digit3
  /-- DIGIT_INVALID (R167) on the nibble v. -/
  | digitInvalid (v : Nib)
  /-- TEMP_DECODE with PSEL = 0 (R170). -/
  | tempDecodeP1
  /-- TEMP_DECODE with PSEL = 1 (R170). -/
  | tempDecodeP2
  /-- The FI's outputs for a frame (R172). -/
  | fiOutputs (frame : Frame)
  /-- POP (20_memory.md R57). -/
  | pop
  /-- RESET (70_reset_and_hazards.md R230). -/
  | reset
deriving DecidableEq, Repr

/-- What the consumer may apply: a pop (R57) or an operation of the combinational interpreter, as the word its
unit reads (30_encoding.md R70). -/
inductive ConsumerWord where
  | pop
  | nibblePack (frame : Frame)
  | digitMap (v : Nib)
  | tempDecode (psel : BitVec 1)
  | fiOutputs (frame : Frame)
deriving DecidableEq, Repr

/-- A word together with the unit that reads it. The table's rows overlap across units (every EVW is read by
TIMESTAMP, EDGE and CLASSIFY; the word of COMPLETE is that of its DATA operation), so the unit, not the bits
alone, settles the row. -/
inductive OpWord where
  | timestamp (w : EvWord)
  | edge (w : EvWord)
  | classify (w : EvWord)
  | psm (w : Edw)
  | completion (w : Edw)
  | consumer (w : ConsumerWord)
  | reset
deriving DecidableEq, Repr

end Sys2Proof
end

