-- ==== Sys2Proof/WellFormed.lean ====
section
/-! DEFINITION. Which instructions are instances of their row: a priority-1 row holds only the words that no
priority-0 row of its state matches (30_encoding.md R75), and DIGIT_INVALID only the nibbles that the four
digits leave (R76). And which configurations a launch may have (10_state.md R31, R33). -/

namespace Sys2Proof

/-- R75, IDLE_STAY: "every class except TwentyClock with edge 0". -/
def idleStayOk (cls : BitVec 3) (edge : Bool) : Bool := !(cls == 3 && !edge)

/-- R75, PRE_ERROR: no TwoClock, no OneClock with edge 1, no TwentyClock with edge 0. -/
def preErrorOk (cls : BitVec 3) (edge : Bool) : Bool :=
  !(cls == 2) && !(cls == 1 && edge) && !(cls == 3 && !edge)

/-- R75, DATA_CLASS_ERROR: neither OneClock nor TwoClock. -/
def dataClassErrorOk (cls : BitVec 3) : Bool := !(cls == 1) && !(cls == 2)

/-- R167: v is none of 5, 6, 9, 10. -/
def digitInvalidOk (v : Nib) : Bool := !(v == 5) && !(v == 6) && !(v == 9) && !(v == 10)

/-- The operands of i are ones its row admits. -/
def Instr.wf : Instr → Bool
  | .timestamp _ => true
  | .edgeBit _ => true
  | .classify _ => true
  | .idleSync _ => true
  | .idleStay cls edge _ => idleStayOk cls edge
  | .preFirstPair _ _ => true
  | .preHalf _ => true
  | .preResync _ => true
  | .preError cls edge _ => preErrorOk cls edge
  | .dataHalf _ => true
  | .dataRepeat _ => true
  | .dataToggle _ => true
  | .dataPairError _ => true
  | .dataClassError cls _ _ => dataClassErrorOk cls
  | .reservedState _ _ _ => true
  | .completeRepeat _ => true
  | .completeToggle _ => true
  | .nibblePack _ => true
  | .digit0 => true
  | .digit1 => true
  | .digit2 => true
  | .digit3 => true
  | .digitInvalid v => digitInvalidOk v
  | .tempDecodeP1 => true
  | .tempDecodeP2 => true
  | .fiOutputs _ => true
  | .pop => true
  | .reset => true

/-- 10_state.md R31: `1 ≤ ONE_MIN ≤ ONE_MAX < TWO_MAX < TWENTY_MIN ≤ TWENTY_MAX < 2^TS_WIDTH − 1`. -/
def Thresholds.wf (c : Thresholds) : Bool :=
  decide (1 ≤ c.oneMin.toNat) && decide (c.oneMin.toNat ≤ c.oneMax.toNat) &&
  decide (c.oneMax.toNat < c.twoMax.toNat) && decide (c.twoMax.toNat < c.twentyMin.toNat) &&
  decide (c.twentyMin.toNat ≤ c.twentyMax.toNat) && decide (c.twentyMax.toNat < 2 ^ 32 - 1)

/-- 10_state.md R33: `FIFO_DEPTH` is at least 1, or unbounded. -/
def Params.wf (p : Params) : Bool :=
  match p.fifoDepth with
  | none => true
  | some d => decide (1 ≤ d)

end Sys2Proof
end

