-- ==== Sys2Proof/Decode.lean ====
section
/-! DEFINITION. The codes of 30_encoding.md, the operation map of R75 as the spec's own table, the decoder of
every format (total; it rejects by name), and after it the encoder. Which row a word stands for is settled by
the unit that reads it (`OpWord`); within the PSM by the first matching row in priority order (R75). -/

namespace Sys2Proof

/-! Codes. -/

/-- ST (R72). -/
def Psm.code : Psm → BitVec 2
  | .idle => 0b00
  | .preamble => 0b01
  | .data => 0b10
  | .reserved => 0b11

/-- The state with a code; every 2-bit value has one. -/
def Psm.ofCode (c : BitVec 2) : Psm :=
  if c = 0b00 then .idle else if c = 0b01 then .preamble else if c = 0b10 then .data else .reserved

/-- CLS (R73). -/
def PulseClass.code : PulseClass → BitVec 3
  | .short => 0b000
  | .oneClock => 0b001
  | .twoClock => 0b010
  | .twentyClock => 0b011
  | .long => 0b100

/-- STS (R77). -/
def EvStatus.code : EvStatus → BitVec 2
  | .none => 0b00
  | .preambleError => 0b01
  | .dataError => 0b10
  | .frameDone => 0b11

/-- EVW (R71): bit 32 is `level`, bits 31..0 are `ts`. -/
def Evw.word (e : Evw) : EvWord := BitVec.ofBool e.level ++ e.ts

/-- The event an EVW carries; every 33-bit value is legal (R71). -/
def Evw.ofWord (w : EvWord) : Evw := { level := w.getLsbD 32, ts := w.extractLsb' 0 32 }

/-! The decode word (R74): `EDW = st<<5 | cls<<2 | edge<<1 | wait`. -/

/-- Assembly of EDW from its four fields. -/
def edwPack (st : BitVec 2) (cls : BitVec 3) (edge wait : Bool) : Edw :=
  st ++ cls ++ BitVec.ofBool edge ++ BitVec.ofBool wait

/-- `st`, EDW[6:5]. -/
def edwSt (w : Edw) : BitVec 2 := w.extractLsb' 5 2
/-- `cls`, EDW[4:2]. -/
def edwCls (w : Edw) : BitVec 3 := w.extractLsb' 2 3
/-- `edge`, EDW[1]. -/
def edwEdge (w : Edw) : Bool := w.getLsbD 1
/-- `wait`, EDW[0]. -/
def edwWait (w : Edw) : Bool := w.getLsbD 0

/-- A row of R75: a word w is the row's when `w & mask = match`. -/
structure EdwRow where
  pattern : Edw
  mask : Edw
  prio : Nat
  /-- The row's operation, with the operands the word carries. -/
  op : Edw → Instr

/-- Does the row match the word (R75)? -/
def EdwRow.hit (r : EdwRow) (w : Edw) : Bool := (w &&& r.mask) == r.pattern

/-- The operation map of R75, in the spec's order. -/
def edwTable : List EdwRow := [
  ⟨0x0C, 0x7E, 0, fun w => .idleSync (edwWait w)⟩,
  ⟨0x00, 0x60, 1, fun w => .idleStay (edwCls w) (edwEdge w) (edwWait w)⟩,
  ⟨0x28, 0x7C, 0, fun w => .preFirstPair (edwEdge w) (edwWait w)⟩,
  ⟨0x26, 0x7E, 0, fun w => .preHalf (edwWait w)⟩,
  ⟨0x2C, 0x7E, 0, fun w => .preResync (edwWait w)⟩,
  ⟨0x20, 0x60, 1, fun w => .preError (edwCls w) (edwEdge w) (edwWait w)⟩,
  ⟨0x44, 0x7D, 0, fun w => .dataHalf (edwEdge w)⟩,
  ⟨0x45, 0x7D, 0, fun w => .dataRepeat (edwEdge w)⟩,
  ⟨0x48, 0x7D, 0, fun w => .dataToggle (edwEdge w)⟩,
  ⟨0x49, 0x7D, 0, fun w => .dataPairError (edwEdge w)⟩,
  ⟨0x40, 0x60, 1, fun w => .dataClassError (edwCls w) (edwEdge w) (edwWait w)⟩,
  ⟨0x60, 0x60, 0, fun w => .reservedState (edwCls w) (edwEdge w) (edwWait w)⟩]

/-- The first row of a priority that matches. -/
def firstHit (prio : Nat) (w : Edw) : Option EdwRow :=
  edwTable.find? fun r => r.prio == prio && r.hit w

/-- R75: the first row that matches, priority 0 before 1. The last alternative is never taken (the table is total). -/
def decodeEdw (w : Edw) : Instr :=
  match firstHit 0 w with
  | some r => r.op w
  | none =>
    match firstHit 1 w with
    | some r => r.op w
    | none => .reservedState (edwCls w) (edwEdge w) (edwWait w)

/-- R76: the digit map's operation for a nibble. -/
def decodeNib (v : Nib) : Instr :=
  if v = 5 then .digit0
  else if v = 6 then .digit1
  else if v = 9 then .digit2
  else if v = 10 then .digit3
  else .digitInvalid v

/-- R80: PSEL 0 selects probe 1, PSEL 1 selects probe 2. -/
def decodePsel (p : BitVec 1) : Instr := if p = 0 then .tempDecodeP1 else .tempDecodeP2

/-- The consumer's words. -/
def decodeConsumer : ConsumerWord → Instr
  | .pop => .pop
  | .nibblePack f => .nibblePack f
  | .digitMap v => decodeNib v
  | .tempDecode p => decodePsel p
  | .fiOutputs f => .fiOutputs f

/-- Why the decoder rejects. -/
inductive DecodeError where
  /-- COMPLETE is a sub-step of DATA_REPEAT and DATA_TOGGLE only (41_state_machine.md R136): no other decode word
  selects it. Safe: the machine never reads such a word there. -/
  | noCompletion (w : Edw)
  /-- The number does not fit the unit's format (R83: every format is fixed-width). Safe. -/
  | tooWide (width : Nat)
  /-- No format of R70 has this many bits. Safe. -/
  | noFormat (nbits : Nat)
deriving DecidableEq, Repr

/-- The completion sub-step a decode word selects (R136). -/
def decodeCompletion (w : Edw) : Except DecodeError Instr :=
  match decodeEdw w with
  | .dataRepeat e => .ok (.completeRepeat e)
  | .dataToggle e => .ok (.completeToggle e)
  | _ => .error (.noCompletion w)

/-- The operation a unit performs on a word. -/
def decode : OpWord → Except DecodeError Instr
  | .timestamp w => .ok (.timestamp (Evw.ofWord w))
  | .edge w => .ok (.edgeBit (Evw.ofWord w))
  | .classify w => .ok (.classify (Evw.ofWord w))
  | .psm w => .ok (decodeEdw w)
  | .completion w => decodeCompletion w
  | .consumer w => .ok (decodeConsumer w)
  | .reset => .ok .reset

/-! The encoder: the word of an instruction, from the st, cls, edge and wait columns of R75. -/

/-- The word of an instruction and the unit that reads it. -/
def encode (i : Instr) : OpWord :=
  match i with
  | .timestamp ev => .timestamp ev.word
  | .edgeBit ev => .edge ev.word
  | .classify ev => .classify ev.word
  | .completeRepeat edge => .completion (edwPack 0b10 0b001 edge true)
  | .completeToggle edge => .completion (edwPack 0b10 0b010 edge false)
  | .nibblePack f => .consumer (.nibblePack f)
  | .digit0 => .consumer (.digitMap 5)
  | .digit1 => .consumer (.digitMap 6)
  | .digit2 => .consumer (.digitMap 9)
  | .digit3 => .consumer (.digitMap 10)
  | .digitInvalid v => .consumer (.digitMap v)
  | .tempDecodeP1 => .consumer (.tempDecode 0)
  | .tempDecodeP2 => .consumer (.tempDecode 1)
  | .fiOutputs f => .consumer (.fiOutputs f)
  | .pop => .consumer .pop
  | .reset => .reset
  | .idleSync wait => .psm (edwPack 0b00 0b011 false wait)
  | .idleStay cls edge wait => .psm (edwPack 0b00 cls edge wait)
  | .preFirstPair edge wait => .psm (edwPack 0b01 0b010 edge wait)
  | .preHalf wait => .psm (edwPack 0b01 0b001 true wait)
  | .preResync wait => .psm (edwPack 0b01 0b011 false wait)
  | .preError cls edge wait => .psm (edwPack 0b01 cls edge wait)
  | .dataHalf edge => .psm (edwPack 0b10 0b001 edge false)
  | .dataRepeat edge => .psm (edwPack 0b10 0b001 edge true)
  | .dataToggle edge => .psm (edwPack 0b10 0b010 edge false)
  | .dataPairError edge => .psm (edwPack 0b10 0b010 edge true)
  | .dataClassError cls edge wait => .psm (edwPack 0b10 cls edge wait)
  | .reservedState cls edge wait => .psm (edwPack 0b11 cls edge wait)

/-- The decode word of an operation of the PSM or of its completion sub-step; of another operation, none. -/
def edwOf (i : Instr) : Option Edw :=
  match encode i with
  | .psm w => some w
  | .completion w => some w
  | .timestamp _ => none
  | .edge _ => none
  | .classify _ => none
  | .consumer _ => none
  | .reset => none

/-! Words given as plain numbers. -/

/-- The units that read a word from a port or from the decoder, for words given as numbers. -/
inductive Reader where
  | timestamp
  | psm
  | completion
  | digitMap
  | tempDecode
  | packer
  | outputs
deriving DecidableEq, Repr

/-- The width of the word a unit reads (R70). -/
def Reader.width : Reader → Nat
  | .timestamp => 33
  | .psm => 7
  | .completion => 7
  | .digitMap => 4
  | .tempDecode => 1
  | .packer => 104
  | .outputs => 104

/-- The unit's word with the bits of a number. -/
def Reader.word (r : Reader) (w : Nat) : OpWord :=
  match r with
  | .timestamp => .timestamp (BitVec.ofNat 33 w)
  | .psm => .psm (BitVec.ofNat 7 w)
  | .completion => .completion (BitVec.ofNat 7 w)
  | .digitMap => .consumer (.digitMap (BitVec.ofNat 4 w))
  | .tempDecode => .consumer (.tempDecode (BitVec.ofNat 1 w))
  | .packer => .consumer (.nibblePack (BitVec.ofNat 104 w))
  | .outputs => .consumer (.fiOutputs (BitVec.ofNat 104 w))

/-- The operation a unit performs on the bits of a number, total on all numbers. -/
def decodeBits (r : Reader) (w : Nat) : Except DecodeError Instr :=
  if w < 2 ^ r.width then decode (r.word w) else .error (.tooWide r.width)

/-- The unit for a word of the opcode table that is given without its format. The number of bits names the
format where it can. In one byte the formats EDW, NIB and PSEL meet, and the row is the first that matches in
the order of the table's priorities (a priority-0 row of the narrowest format first): PSEL's two words, the four
digits, then EDW (DESIGN CHOICE, assumption 7). Of several units that read one format, the first in the table. -/
def tableReader (nbits w : Nat) : Except DecodeError Reader :=
  if nbits = 8 then
    if w < 2 then .ok .tempDecode
    else if w = 5 || w = 6 || w = 9 || w = 10 then .ok .digitMap
    else .ok .psm
  else if nbits = 7 then .ok .psm
  else if nbits = 4 then .ok .digitMap
  else if nbits = 1 then .ok .tempDecode
  else if nbits = 33 || nbits = 40 then .ok .timestamp
  else if nbits = 104 then .ok .packer
  else .error (.noFormat nbits)

/-- The instruction of a word of the opcode table, or the name of the rejection. -/
def decodeTable (nbits w : Nat) : Except DecodeError Instr :=
  match tableReader nbits w with
  | .ok r => decodeBits r w
  | .error e => .error e

/-- The instruction of a word of the opcode table, none where the decoder rejects it. -/
def decodeTableWord (nbits w : Nat) : Option Instr :=
  match decodeTable nbits w with
  | .ok i => some i
  | .error _ => none

end Sys2Proof
end

