-- ==== Sys2Proof/Machine/State.lean ====
section
/-! DEFINITION. The machine's state as plain data: the registers of 10_state.md R20, the launch's parameters, the
outputs a model records (R34, R205), the environment's plans, and the reasons a step can stop. -/

namespace Sys2Proof.Machine

/-- The model faults that `FAULTS` can hold (60_exceptions.md R207): there is one. -/
inductive ModelFault where
  /-- `STATE` = 0b11 was found (41_state_machine.md R135). -/
  | reservedState
deriving DecidableEq, Repr

/-- Why a step can stop with a fault. -/
inductive Fault where
  /-- Raised by `step` when an event is offered, `FAULTS` is non-empty and no other agent has a turn left: the decoder
  has no further step (60_exceptions.md R207). Safe: unreachable from reset. -/
  | reservedState
  /-- Raised by the operations that write a frame bit when an index they use is outside 0..103: no such slot exists
  (20_memory.md R50). Safe: unreachable from reset (10_state.md R37 I-C, I-D; DESIGN CHOICE, assumption 9). -/
  | noSuchSlot (bitCount : BitVec 7)
deriving DecidableEq, Repr

/-- Why a step can be refused. -/
inductive Refusal where
  /-- An instruction without a meaning, by its mnemonic. Safe. -/
  | notModelled (mnemonic : String)
  /-- `CFG_ILL_FORMED`: the launch's configuration breaks 10_state.md R31 (60_exceptions.md R208 a). Safe. -/
  | cfgIllFormed
  /-- `CFG_CHANGED`: the host changes `CFG` during a run (60_exceptions.md R208 b). Safe. -/
  | cfgChanged
deriving DecidableEq, Repr

/-- The three outcomes of a step of this machine. -/
abbrev Outcome (σ : Type) := Host.Outcome σ Fault Refusal

/-- Values of one decoder step: they hold nothing from one event to the next (10_state.md R29, R34). -/
structure Wires where
  dt : Ts
  edge : Bool
  cls : PulseClass
  edw : Edw
  status : EvStatus
  dbgSync : Bool
  dbgDerr : Bool
deriving DecidableEq, Repr

/-- The frame interpreter's ports. It is combinational and holds no state (10_state.md R34): these are the frame
presented to it and the values its outputs were last driven to (DESIGN CHOICE, assumption 15). -/
structure FiPorts where
  frame : Frame
  nib : List Nib
  digit : BitVec 2
  invalid : Bool
  temp1 : Temp
  temp1Err : Bool
  temp2 : Temp
  temp2Err : Bool
deriving DecidableEq, Repr

/-- The debug strobes of one step, as Booleans "pulsed" (60_exceptions.md R215). -/
structure Strobes where
  sync : Bool
  derr : Bool
deriving DecidableEq, Repr

/-- One entry of the event history (60_exceptions.md R205): `(ts, level, dt, cls, EDW, op, EV_STATUS)` and, with
`HAS_DEBUG`, the strobes. -/
structure Entry where
  ts : Ts
  level : Bool
  dt : Ts
  cls : PulseClass
  edw : Edw
  op : Instr
  status : EvStatus
  strobes : Option Strobes
deriving DecidableEq, Repr

/-- Which agent moves next, and what it does (00_scope.md R14, 70_reset_and_hazards.md R235; DESIGN CHOICE, assumption 6). -/
inductive Turn where
  /-- The decoder takes the event offered, if it is enabled. -/
  | decoder
  /-- The edge source comes up with one more event, behind those it already has to offer (20_memory.md R59 a). -/
  | offer (w : EvWord)
  /-- The consumer pops, or applies an interpreter operation to a word of its choice. -/
  | consumer (w : ConsumerWord)
  /-- The consumer applies the FI to the frame it holds (20_memory.md R57: "Usually"). -/
  | interpret
  /-- The host resets the core (R230). -/
  | reset
  /-- The host sets the configuration (10_state.md R30). -/
  | cfg (c : Thresholds)
deriving DecidableEq, Repr

/-- The machine. -/
structure State where
  /-- `STATE` (R21). -/
  psm : Psm
  /-- `BIT_COUNT` (R22). -/
  bitCount : BitVec 7
  /-- `WAIT_COUNT` (R23). -/
  waitCount : Bool
  /-- `PREV_TS` (R24). -/
  prevTs : Ts
  /-- `FRAME[0..103]` (R25), bit i = slot i; slot 0 is hardwired (R26) by the operations that read and write it. -/
  frame : Frame
  /-- `CFG` (R30). -/
  cfg : Thresholds
  /-- `OUT_FIFO`, head first (R33). -/
  outFifo : List Frame
  /-- `FAULTS`, a set: a list without repeats (R35). -/
  faults : List ModelFault
  /-- The launch's OPEN parameters (00_scope.md R7). -/
  params : Params
  /-- The step's values and outputs (R34). -/
  wires : Wires
  /-- The FI's ports (R34, R172). -/
  fi : FiPorts
  /-- The event history, oldest first (R205). -/
  history : List Entry
  /-- The frames popped, oldest first (R240). -/
  popped : List Frame
  /-- The events the edge source has to offer and has yet to have accepted; the head is the one offered (R14, R59). -/
  events : List EvWord
  /-- The agents' turns, next first (R210). -/
  turns : List Turn
  /-- A reset has been applied, so `CFG` is fixed until the end of the run (R32, 60_exceptions.md R208 b). False only before the
  host's first reset, when it chooses `CFG` (70_reset_and_hazards.md R234). -/
  running : Bool
  /-- How many resets have drawn `PREV_TS_RESET` (R24). -/
  draws : Nat
deriving DecidableEq, Repr

/-- The step values before any step (DESIGN CHOICE, assumption 19). -/
def Wires.start : Wires :=
  { dt := 0, edge := false, cls := .short, edw := 0, status := .none, dbgSync := false, dbgDerr := false }

/-- The FI's ports before it is applied to anything (DESIGN CHOICE, assumption 19). -/
def FiPorts.start : FiPorts :=
  { frame := 0, nib := [], digit := 0, invalid := false, temp1 := 0, temp1Err := false, temp2 := 0, temp2Err := false }

/-- The machine right after reset for a launch: 10_state.md R38 with the launch's inputs `CFG`, the OPEN parameters and
the draw of `PREV_TS_RESET`. -/
def State.launch (cfg : Thresholds) (params : Params) (prevTsReset : Ts) : State :=
  { psm := .idle, bitCount := 0, waitCount := false, prevTs := prevTsReset, frame := 0, cfg := cfg,
    outFifo := [], faults := [], params := params, wires := Wires.start, fi := FiPorts.start,
    history := [], popped := [], events := [], turns := [], running := true, draws := 0 }

/-- The machine right after reset. The launch's inputs are the model's choice: `CFG` = `TC`, an unbounded queue, debug
strobes present, `PREV_TS` = 0 (DESIGN CHOICE, assumptions 1, 3, 4, 5). -/
def State.reset : State :=
  State.launch Thresholds.tc { fifoDepth := none, hasDebug := true } 0

end Sys2Proof.Machine
end

