-- ==== Sys2Proof/Machine/Operands.lean ====
section
/-! DEFINITION. Operand assembly (30_encoding.md R81): the interval and the edge bit of an event, the class of an
interval, the decode word of a step, the nibbles of a frame. -/

namespace Sys2Proof.Machine

/-- `dt = (ts − PREV_TS) mod 2^32` (40_classifier.md R100). -/
def interval (prevTs ts : Ts) : Ts := ts - prevTs

/-- `edge = 1 − level` (40_classifier.md R101). -/
def edgeOfLevel (level : Bool) : Bool := !level

/-- CLASSIFY's priority chain (40_classifier.md R102); the comparisons are unsigned. -/
def classOf (c : Thresholds) (dt : Ts) : PulseClass :=
  if dt < c.oneMin then .short
  else if dt ≤ c.oneMax then .oneClock
  else if dt ≤ c.twoMax then .twoClock
  else if c.twentyMin ≤ dt ∧ dt ≤ c.twentyMax then .twentyClock
  else .long

/-- EDW of a state, a class and an edge bit (30_encoding.md R74). -/
def edwWith (s : State) (cls : PulseClass) (edge : Bool) : Edw :=
  edwPack s.psm.code cls.code edge s.waitCount

/-- EDW that a step on this event will assemble, from the state before the step (R74, R120). -/
def edwFor (ev : Evw) (s : State) : Edw :=
  edwWith s (classOf s.cfg (interval s.prevTs ev.ts)) (edgeOfLevel ev.level)

/-- The operation selected for an event (R121). -/
def selected (ev : Evw) (s : State) : Instr := decodeEdw (edwFor ev s)

/-- Nibble n of a frame, lowest slot most significant (42_frame_interpreter.md R160, 00_scope.md R10). -/
def nibble (f : Frame) (n : Nat) : Nib :=
  BitVec.ofNat 4 ((f.getLsbD (4 * n)).toNat * 8 + (f.getLsbD (4 * n + 1)).toNat * 4 +
    (f.getLsbD (4 * n + 2)).toNat * 2 + (f.getLsbD (4 * n + 3)).toNat)

/-- The NibbleSequence `NIB[0..25]` of a frame (R160). -/
def nibbles (f : Frame) : List Nib := (List.range Config.nibbles).map (nibble f)

/-- The frame with a given nibble sequence, the inverse of `nibbles` (R161): slot i is bit 3 − i mod 4 of nibble i / 4. -/
def frameOfNibbles (ns : List Nib) : Frame :=
  (List.range Config.frameBits).foldl
    (fun f i => if (ns.getD (i / 4) 0).getLsbD (3 - i % 4) then f ||| BitVec.twoPow 104 i else f) 0

/-- The byte view for interchange and printing: byte k is nibble 2k · 16 + nibble 2k+1 (20_memory.md R54, 30_encoding.md
R79). No rule of the core reads it. -/
def byteView (f : Frame) : List (BitVec 8) :=
  (List.range 13).map fun k => nibble f (2 * k) ++ nibble f (2 * k + 1)

/-- DIGIT_MAP (R162): a nibble's base-4 digit and its invalid bit, the table of 30_encoding.md R76. -/
def digitMap (v : Nib) : BitVec 2 × Bool :=
  if v = 5 then (0, false)
  else if v = 6 then (1, false)
  else if v = 9 then (2, false)
  else if v = 10 then (3, false)
  else (0, true)

/-- `d_k` as an integer: the digit of the nibble at window position k (R169). -/
def digitAt (f : Frame) (offset k : Nat) : Int := (digitMap (nibble f (offset + k))).1.toNat

/-- `inv_k`: the invalid bit of the nibble at window position k (R169). -/
def invalidAt (f : Frame) (offset k : Nat) : Bool := (digitMap (nibble f (offset + k))).2

/-- The reading as the exact integer (R170): weights 4^4 … 4^0, less the calibration offset. -/
def reading (f : Frame) (offset : Nat) : Int :=
  digitAt f offset 0 * 256 + digitAt f offset 1 * 64 + digitAt f offset 2 * 16 + digitAt f offset 3 * 4 +
    digitAt f offset 4 - Config.calOffset

/-- `TEMP`: the reading as a 16-bit two's-complement word (R170, 30_encoding.md R78). -/
def tempWord (f : Frame) (offset : Nat) : Temp := BitVec.ofInt 16 (reading f offset)

/-- `ERR`: a nibble of the window is invalid (R170). -/
def tempErr (f : Frame) (offset : Nat) : Bool :=
  (List.range Config.probeDigits).any (invalidAt f offset)

end Sys2Proof.Machine
end

