-- ==== Sys2Proof/Machine/Flags.lean ====
section
/-! DEFINITION. The core's one status flag, `WAIT_COUNT` (10_state.md R29), and the per-event report `EV_STATUS` with its
debug strobe (R34, 60_exceptions.md R215). -/

namespace Sys2Proof.Machine

/-- Writes `WAIT_COUNT` (10_state.md R23). -/
def setWait (b : Bool) (s : State) : State := { s with waitCount := b }

/-- `report c` (00_scope.md R11): sets this event's `EV_STATUS`; `DBG_DERR` is raised, if it exists, by a data error
and by nothing else (60_exceptions.md R215). -/
def report (c : EvStatus) (s : State) : State :=
  { s with wires := { s.wires with status := c, dbgDerr := s.params.hasDebug && c == .dataError } }

/-- The entry of a decoder step (41_state_machine.md R120): `DBG_SYNC` high if it exists, `EV_STATUS` = NONE. -/
def enterStep (s : State) : State :=
  { s with wires := { s.wires with status := .none, dbgSync := s.params.hasDebug, dbgDerr := false } }

/-- The exit of a decoder step (R120): `DBG_SYNC` low, the pulse of `DBG_DERR` over. -/
def exitStep (s : State) : State :=
  { s with wires := { s.wires with dbgSync := false, dbgDerr := false } }

/-- The step's strobes as per-step Booleans: `DBG_SYNC` pulsed is always true, `DBG_DERR` pulsed is
`EV_STATUS = DATA_ERROR`; absent without `HAS_DEBUG` (60_exceptions.md R215;
DESIGN CHOICE, assumption 23). -/
def strobesOf (s : State) : Option Strobes :=
  if s.params.hasDebug then some { sync := s.wires.dbgSync, derr := s.wires.dbgDerr } else none

end Sys2Proof.Machine
end

