-- ==== Sys2Proof/Machine/Ops.lean ====
section
/-! DEFINITION. The named operations over the machine's storage: sequencing of sub-steps, the frame buffer's slots, the
output queue, taking an error, raising a model fault, reset. -/

namespace Sys2Proof.Machine

/-- Sub-steps run in order (00_scope.md R11); a fault or a refusal stops the whole step. -/
def andThen (o : Outcome State) (f : State → Outcome State) : Outcome State :=
  match o with
  | .next s => f s
  | .fault r => .fault r
  | .refused r => .refused r

/-- The next state of an outcome, if it has one. -/
def nextState : Outcome State → Option State
  | .next s => some s
  | .fault _ => none
  | .refused _ => none

/-! The frame buffer: `FRAME[0..103]`, slot 0 hardwired to 0 (10_state.md R26). -/

/-- `FRAME[i]` (00_scope.md R11; slot 0 is hardwired, assumption 16). -/
def readSlot (f : Frame) (i : Nat) : Bool := if i = 0 then false else f.getLsbD i

/-- `FRAME[i] <- b`: slot 0 discards it. -/
def writeSlot (f : Frame) (i : Nat) (b : Bool) : Frame :=
  if i = 0 then f else if b then f ||| BitVec.twoPow 104 i else f &&& ~~~ BitVec.twoPow 104 i

/-- The whole content of the buffer as `push` copies it, slot 0 as it reads (20_memory.md R51). -/
def frameContent (f : Frame) : Frame := f &&& ~~~ BitVec.twoPow 104 0

/-- Does the register name a slot of the buffer (20_memory.md R50: indices run 0..103)? -/
def slotExists (i : BitVec 7) : Bool := decide (i.toNat < Config.frameBits)

/-- `FRAME[i] <- b` for an index register; an index that names no slot faults (DESIGN CHOICE, assumption 9). -/
def storeSlot (i : BitVec 7) (b : Bool) (s : State) : Outcome State :=
  if slotExists i then .next { s with frame := writeSlot s.frame i.toNat b } else .fault (.noSuchSlot i)

/-- The bit write of the Data state (41_state_machine.md R131, R132): `FRAME[BIT_COUNT] <- FRAME[BIT_COUNT−1] xor flip`,
then the post-increment. With `BIT_COUNT` = 0 or above 103 an index names no slot. -/
def appendBit (flip : Bool) (s : State) : Outcome State :=
  if s.bitCount = 0 then .fault (.noSuchSlot s.bitCount)
  else
    andThen (storeSlot s.bitCount (xor (readSlot s.frame (s.bitCount.toNat - 1)) flip) s) fun t =>
      .next { t with bitCount := t.bitCount + 1 }

/-! The output queue. -/

/-- `OUT_FIFO` holds `FIFO_DEPTH` frames (20_memory.md R58). -/
def fifoFull (s : State) : Bool :=
  match s.params.fifoDepth with
  | none => false
  | some d => decide (d ≤ s.outFifo.length)

/-- `push F` at the tail (20_memory.md R56). -/
def pushFrame (f : Frame) (s : State) : State := { s with outFifo := s.outFifo ++ [f] }

/-- The consumer removes the head and holds it (20_memory.md R57); on an empty queue its step is not enabled and nothing
happens (DESIGN CHOICE, assumption 13). -/
def popFrame (s : State) : State :=
  match s.outFifo with
  | [] => s
  | f :: rest => { s with outFifo := rest, popped := s.popped ++ [f], fi := { s.fi with frame := f } }

/-- COMPLETE (41_state_machine.md R136): when `BIT_COUNT` has reached 104 the frame is pushed, the buffer cleared, the
counters reset, `STATE` set to Idle and FRAME_DONE reported. A full queue makes it hold (R137). -/
def completeFrame (s : State) : State :=
  if Config.frameBits ≤ s.bitCount.toNat then
    if fifoFull s then s
    else
      report .frameDone
        { pushFrame (frameContent s.frame) s with frame := 0, bitCount := 0, waitCount := false, psm := .idle }
  else s

/-- The state before a bit write that would complete a frame, with no room for it: the whole step holds (R137). -/
def completionBlocked (s : State) : Bool := s.bitCount == 103 && fifoFull s

/-- `completes(ev)` (R137): the operation selected is DATA_REPEAT or DATA_TOGGLE and `BIT_COUNT` = 103. -/
def completes (ev : Evw) (s : State) : Bool :=
  match selected ev s with
  | .dataRepeat _ => s.bitCount == 103
  | .dataToggle _ => s.bitCount == 103
  | _ => false

/-- The decoder holds on this event (R137). -/
def held (ev : Evw) (s : State) : Bool := completes ev s && fifoFull s

/-- The event offered is held (41_state_machine.md R137). -/
def isHeld (s : State) : Bool :=
  match s.events with
  | [] => false
  | w :: _ => held (Evw.ofWord w) s

/-! The end of a run (70_reset_and_hazards.md R240). A run lasts until the next reset. -/

/-- The turn is the edge source's. -/
def Turn.isOffer : Turn → Bool
  | .offer _ => true
  | .decoder => false
  | .consumer _ => false
  | .interpret => false
  | .reset => false
  | .cfg _ => false

/-- The turn is a reset. -/
def Turn.isReset : Turn → Bool
  | .reset => true
  | .offer _ => false
  | .decoder => false
  | .consumer _ => false
  | .interpret => false
  | .cfg _ => false

/-- The edge source comes up with a further event before the next reset. -/
def offersLeft : List Turn → Bool
  | [] => false
  | t :: rest => !t.isReset && (t.isOffer || offersLeft rest)

/-- A run is over (R240): no further event up to the next reset (read from the plans: DESIGN CHOICE, assumption 11), nothing
held, the queue drained, no fault. -/
def runOver (s : State) : Bool :=
  s.events.isEmpty && !offersLeft s.turns && !isHeld s && s.outFifo.isEmpty && s.faults.isEmpty

/-! Errors and faults. -/

/-- Taking an error, the analogue of exception entry (60_exceptions.md R205): `STATE` goes to Idle and the code is
reported. Nothing is saved, no register but `STATE` is written, there is no handler. There is no return from it either:
recovery is complete when the step ends in Idle (R206). -/
def takeError (c : EvStatus) (s : State) : State := report c { s with psm := .idle }

/-- `fault F` (60_exceptions.md R207): adds F to `FAULTS`. -/
def raiseFault (f : ModelFault) (s : State) : State :=
  { s with faults := if s.faults.contains f then s.faults else s.faults ++ [f] }

/-! Reset. -/

/-- RESET (70_reset_and_hazards.md R230, 10_state.md R38): every piece of the core's state to its reset value, `PREV_TS` a
fresh draw. `CFG` and the OPEN parameters are the launch's and stay, and from here to the end of the run `CFG` is fixed (R32);
what the environment holds stays (DESIGN CHOICE, assumptions 14, 20). The spec does not say whether the draws of two instances
are independent: the draw is one function of the counter `draws`, so two States with equal counters draw equal values
(DESIGN CHOICE, assumptions 2, 24). -/
def resetCore (s : State) : State :=
  { s with
    psm := .idle, bitCount := 0, waitCount := false, prevTs := Config.prevTsReset s.draws, frame := 0,
    outFifo := [], faults := [], running := true, draws := s.draws + 1 }

/-- The host sets `CFG` (10_state.md R30 to R32). An ill-formed configuration is refused (60_exceptions.md R208 a); so is a change
after reset and before the end of the run (R208 b). So `CFG` is set before the first event and before the reset that starts
its run, as the boot order has it (70_reset_and_hazards.md R234; DEDUCED, assumption 11). A change to an ill-formed
configuration during a run meets both refusals, and the spec gives no precedence: it answers CFG_ILL_FORMED (DESIGN CHOICE,
assumption 11). A change during a run from an ill-formed `CFG` to a well-formed one meets both as well, (a) by the launch's own
configuration and (b) by the change: it answers CFG_CHANGED (DESIGN CHOICE, assumption 11). After the end of the run no event is
accepted before the next reset, so a new configuration takes effect only through that reset (10_state.md R32,
70_reset_and_hazards.md R234). -/
def configure (c : Thresholds) (s : State) : Outcome State :=
  if !c.wf then .refused .cfgIllFormed
  else if s.running && !runOver s && c != s.cfg then .refused .cfgChanged
  else .next { s with cfg := c }

end Sys2Proof.Machine
end

