-- ==== Sys2Proof/Machine/Classifier.lean ====
section
/-! DEFINITION. The operations that run for every accepted event (40_classifier.md): TIMESTAMP, EDGE, CLASSIFY. -/

namespace Sys2Proof.Machine

/-- TIMESTAMP (40_classifier.md R100): `dt <- (ts − PREV_TS) mod 2^32; PREV_TS <- ts`. -/
def execTimestamp (ev : Evw) (s : State) : Outcome State :=
  .next { s with wires := { s.wires with dt := interval s.prevTs ev.ts }, prevTs := ev.ts }

/-- EDGE (40_classifier.md R101): `edge <- 1 − level`, a value of this step. -/
def execEdgeBit (ev : Evw) (s : State) : Outcome State :=
  .next { s with wires := { s.wires with edge := edgeOfLevel ev.level } }

/-- CLASSIFY (40_classifier.md R102) of the step's `dt`; it reads nothing of the event but through `dt` (R121). -/
def execClassify (_ev : Evw) (s : State) : Outcome State :=
  .next { s with wires := { s.wires with cls := classOf s.cfg s.wires.dt } }

end Sys2Proof.Machine
end

