-- ==== Sys2Proof/Machine/Data.lean ====
section
/-! DEFINITION. The operations of the Data state, the completion sub-step and the reserved state (41_state_machine.md
sections 4 to 6). The edge bit is ignored by all of them (R129). -/

namespace Sys2Proof.Machine

/-- DATA_HALF (41_state_machine.md R130): the first half of a bit pair. -/
def execDataHalf (_edge : Bool) (s : State) : Outcome State := .next (setWait true s)

/-- COMPLETE after DATA_REPEAT's bit write (41_state_machine.md R136). -/
def execCompleteRepeat (_edge : Bool) (s : State) : Outcome State := .next (completeFrame s)

/-- COMPLETE after DATA_TOGGLE's bit write (41_state_machine.md R136). -/
def execCompleteToggle (_edge : Bool) (s : State) : Outcome State := .next (completeFrame s)

/-- DATA_REPEAT (41_state_machine.md R131): the previous bit again, `WAIT_COUNT` to 0, then COMPLETE. The whole operation
holds when it would complete a frame and the queue is full (R137; DEDUCED, assumption 8). -/
def execDataRepeat (edge : Bool) (s : State) : Outcome State :=
  if completionBlocked s then .next s
  else andThen (appendBit false s) fun t => execCompleteRepeat edge (setWait false t)

/-- DATA_TOGGLE (41_state_machine.md R132): the complement of the previous bit, then COMPLETE; holds as DATA_REPEAT does. -/
def execDataToggle (edge : Bool) (s : State) : Outcome State :=
  if completionBlocked s then .next s
  else andThen (appendBit true s) fun t => execCompleteToggle edge t

/-- DATA_PAIR_ERROR (41_state_machine.md R133): DataError (60_exceptions.md R201). -/
def execDataPairError (_edge : Bool) (s : State) : Outcome State := .next (takeError .dataError s)

/-- DATA_CLASS_ERROR (41_state_machine.md R134): DataError, TwentyClock included (90_conflicts.md C1). -/
def execDataClassError (_cls : BitVec 3) (_edge _wait : Bool) (s : State) : Outcome State :=
  .next (takeError .dataError s)

/-- RESERVED_STATE (41_state_machine.md R135): the model fault is recorded; `STATE` stays. -/
def execReservedState (_cls : BitVec 3) (_edge _wait : Bool) (s : State) : Outcome State :=
  .next (raiseFault .reservedState s)

end Sys2Proof.Machine
end

