-- ==== Sys2Proof/Machine/Idle.lean ====
section
/-! DEFINITION. The operations of the Idle state (41_state_machine.md section 2). -/

namespace Sys2Proof.Machine

/-- IDLE_SYNC (41_state_machine.md R123): the counters to 0, `STATE` to Preamble; the frame is not cleared. -/
def execIdleSync (_wait : Bool) (s : State) : Outcome State :=
  .next { setWait false s with bitCount := 0, psm := .preamble }

/-- IDLE_STAY (41_state_machine.md R124): no operation, and no error in Idle. -/
def execIdleStay (_cls : BitVec 3) (_edge _wait : Bool) (s : State) : Outcome State := .next s

end Sys2Proof.Machine
end

