-- ==== Sys2Proof/Machine/Interpreter.lean ====
section
/-! DEFINITION. The frame interpreter's operations (42_frame_interpreter.md). They are combinational: each drives output
ports from its operands and writes no state of the core. -/

namespace Sys2Proof.Machine

/-- The digit map's output for one nibble (42_frame_interpreter.md R162). -/
def driveDigit (digit : BitVec 2) (invalid : Bool) (s : State) : State :=
  { s with fi := { s.fi with digit := digit, invalid := invalid } }

/-- The packer's output for a frame presented to the FI (R160). -/
def drivePacker (f : Frame) (s : State) : State :=
  { s with fi := { s.fi with frame := f, nib := nibbles f } }

/-- `TEMP1, TEMP1_ERR` for the frame at the FI's input (R170, PSEL = 0). -/
def driveTemp1 (s : State) : State :=
  { s with fi := { s.fi with
      temp1 := tempWord s.fi.frame Config.p1Offset, temp1Err := tempErr s.fi.frame Config.p1Offset } }

/-- `TEMP2, TEMP2_ERR` for the frame at the FI's input (R170, PSEL = 1). -/
def driveTemp2 (s : State) : State :=
  { s with fi := { s.fi with
      temp2 := tempWord s.fi.frame Config.p2Offset, temp2Err := tempErr s.fi.frame Config.p2Offset } }

/-- NIBBLE_PACK (42_frame_interpreter.md R160). -/
def execNibblePack (f : Frame) (s : State) : Outcome State := .next (drivePacker f s)

/-- DIGIT_0 (42_frame_interpreter.md R163). -/
def execDigit0 (s : State) : Outcome State := .next (driveDigit 0 false s)

/-- DIGIT_1 (42_frame_interpreter.md R164). -/
def execDigit1 (s : State) : Outcome State := .next (driveDigit 1 false s)

/-- DIGIT_2 (42_frame_interpreter.md R165). -/
def execDigit2 (s : State) : Outcome State := .next (driveDigit 2 false s)

/-- DIGIT_3 (42_frame_interpreter.md R166). -/
def execDigit3 (s : State) : Outcome State := .next (driveDigit 3 false s)

/-- DIGIT_INVALID (42_frame_interpreter.md R167): digit 0 and the error bit (90_conflicts.md C4). -/
def execDigitInvalid (_v : Nib) (s : State) : Outcome State := .next (driveDigit 0 true s)

/-- TEMP_DECODE with PSEL = 0 (42_frame_interpreter.md R170). -/
def execTempDecodeP1 (s : State) : Outcome State := .next (driveTemp1 s)

/-- TEMP_DECODE with PSEL = 1 (42_frame_interpreter.md R170). -/
def execTempDecodeP2 (s : State) : Outcome State := .next (driveTemp2 s)

/-- The FI's outputs for a frame (42_frame_interpreter.md R172): both probes, independently. -/
def execFiOutputs (f : Frame) (s : State) : Outcome State := .next (driveTemp2 (driveTemp1 (drivePacker f s)))

end Sys2Proof.Machine
end

