-- ==== Sys2Proof/Machine/Port.lean ====
section
/-! DEFINITION. The port operations: the consumer's POP and the host's RESET. -/

namespace Sys2Proof.Machine

/-- POP (20_memory.md R57). -/
def execPop (s : State) : Outcome State := .next (popFrame s)

/-- RESET (70_reset_and_hazards.md R230). -/
def execReset (s : State) : Outcome State := .next (resetCore s)

end Sys2Proof.Machine
end

