-- ==== Sys2Proof/Machine/Preamble.lean ====
section
/-! DEFINITION. The operations of the Preamble state (41_state_machine.md section 3). -/

namespace Sys2Proof.Machine

/-- `BIT_COUNT <- BIT_COUNT + 1; FRAME[BIT_COUNT] <- b` (41_state_machine.md R125: the Preamble pre-increments). -/
def preIncrementWrite (b : Bool) (s : State) : Outcome State :=
  storeSlot (s.bitCount + 1) b { s with bitCount := s.bitCount + 1 }

/-- PRE_FIRST_PAIR (41_state_machine.md R125): writes `edge xor 1`, then `edge`, and goes to Data. -/
def execPreFirstPair (edge _wait : Bool) (s : State) : Outcome State :=
  andThen (preIncrementWrite (xor edge true) s) fun t =>
    andThen (preIncrementWrite edge t) fun u => .next { u with psm := .data }

/-- PRE_HALF (41_state_machine.md R126): a benign mid-preamble pulse, no operation. -/
def execPreHalf (_wait : Bool) (s : State) : Outcome State := .next s

/-- PRE_RESYNC (41_state_machine.md R127): a repeated sync marker, no operation; the counters are not reset again. -/
def execPreResync (_wait : Bool) (s : State) : Outcome State := .next s

/-- PRE_ERROR (41_state_machine.md R128): PreambleError (60_exceptions.md R200). -/
def execPreError (_cls : BitVec 3) (_edge _wait : Bool) (s : State) : Outcome State :=
  .next (takeError .preambleError s)

end Sys2Proof.Machine
end

