-- ==== Sys2Proof/Machine/Dispatch.lean ====
section
/-! DEFINITION. One arm per operation of spec/opcode_table.json. -/

namespace Sys2Proof.Machine

def exec (i : Instr) (s : State) : Host.Outcome State Fault Refusal :=
  match i with
  | .timestamp ev => Sys2Proof.Machine.execTimestamp ev s
  | .edgeBit ev => Sys2Proof.Machine.execEdgeBit ev s
  | .classify ev => Sys2Proof.Machine.execClassify ev s
  | .idleSync wait => Sys2Proof.Machine.execIdleSync wait s
  | .idleStay cls edge wait => Sys2Proof.Machine.execIdleStay cls edge wait s
  | .preFirstPair edge wait => Sys2Proof.Machine.execPreFirstPair edge wait s
  | .preHalf wait => Sys2Proof.Machine.execPreHalf wait s
  | .preResync wait => Sys2Proof.Machine.execPreResync wait s
  | .preError cls edge wait => Sys2Proof.Machine.execPreError cls edge wait s
  | .dataHalf edge => Sys2Proof.Machine.execDataHalf edge s
  | .dataRepeat edge => Sys2Proof.Machine.execDataRepeat edge s
  | .dataToggle edge => Sys2Proof.Machine.execDataToggle edge s
  | .dataPairError edge => Sys2Proof.Machine.execDataPairError edge s
  | .dataClassError cls edge wait => Sys2Proof.Machine.execDataClassError cls edge wait s
  | .reservedState cls edge wait => Sys2Proof.Machine.execReservedState cls edge wait s
  | .completeRepeat edge => Sys2Proof.Machine.execCompleteRepeat edge s
  | .completeToggle edge => Sys2Proof.Machine.execCompleteToggle edge s
  | .nibblePack frame => Sys2Proof.Machine.execNibblePack frame s
  | .digit0 => Sys2Proof.Machine.execDigit0 s
  | .digit1 => Sys2Proof.Machine.execDigit1 s
  | .digit2 => Sys2Proof.Machine.execDigit2 s
  | .digit3 => Sys2Proof.Machine.execDigit3 s
  | .digitInvalid v => Sys2Proof.Machine.execDigitInvalid v s
  | .tempDecodeP1 => Sys2Proof.Machine.execTempDecodeP1 s
  | .tempDecodeP2 => Sys2Proof.Machine.execTempDecodeP2 s
  | .fiOutputs frame => Sys2Proof.Machine.execFiOutputs frame s
  | .pop => Sys2Proof.Machine.execPop s
  | .reset => Sys2Proof.Machine.execReset s

end Sys2Proof.Machine
end

