-- ==== Sys2Proof/Machine/Cycle.lean ====
section
/-! DEFINITION. The decoder's atomic step on one event (41_state_machine.md R120), when it is enabled (R137, 60_exceptions.md
R207), and the turns of the other agents (00_scope.md R14, 70_reset_and_hazards.md R235). -/

namespace Sys2Proof.Machine

/-- `EDW <- STATE<<5 | cls<<2 | edge<<1 | WAIT_COUNT` (R120, 30_encoding.md R74). -/
def assembleEdw (s : State) : State :=
  { s with wires := { s.wires with edw := edwWith s s.wires.cls s.wires.edge } }

/-- The history entry of a step that has just performed `op` on an event (60_exceptions.md R205). -/
def entryOf (ev : Evw) (op : Instr) (s : State) : Entry :=
  { ts := ev.ts, level := ev.level, dt := s.wires.dt, cls := s.wires.cls, edw := s.wires.edw, op := op,
    status := s.wires.status, strobes := strobesOf s }

/-- The end of a decoder step: its entry is recorded, the strobes fall (R120). An accepted event is part of a run
(10_state.md R32). -/
def leaveStep (ev : Evw) (op : Instr) (s : State) : State :=
  exitStep { s with history := s.history ++ [entryOf ev op s], running := true }

/-- The decoder step (41_state_machine.md R120): TIMESTAMP, EDGE, CLASSIFY, the decode word, the operation it selects
(COMPLETE is the last sub-step of DATA_REPEAT and DATA_TOGGLE, R131, R132). -/
def decoderStep (ev : Evw) (s : State) : Outcome State :=
  andThen (exec (.timestamp ev) (enterStep s)) fun s1 =>
  andThen (exec (.edgeBit ev) s1) fun s2 =>
  andThen (exec (.classify ev) s2) fun s3 =>
  andThen (exec (decodeEdw (assembleEdw s3).wires.edw) (assembleEdw s3)) fun s4 =>
  .next (leaveStep ev (decodeEdw s4.wires.edw) s4)

/-- The decoder may step on this event: `FAULTS` is empty (60_exceptions.md R207) and nothing holds it (R137). -/
def enabled (ev : Evw) (s : State) : Bool := s.faults.isEmpty && !held ev s

/-- The decoder's turn: the event offered is accepted if the decoder is enabled; otherwise nothing happens, not even the
update of `PREV_TS`, and the event stays offered (R137). With no event offered the decoder waits (R217). -/
def decoderTurn (s : State) : Outcome State :=
  match s.events with
  | [] => .next s
  | w :: rest =>
    if enabled (Evw.ofWord w) s then decoderStep (Evw.ofWord w) { s with events := rest } else .next s

/-- A launch whose `CFG` is ill-formed has no step (10_state.md R31, 60_exceptions.md R208 a). -/
def guardLaunch (s : State) (o : Outcome State) : Outcome State :=
  if s.cfg.wf then o else .refused .cfgIllFormed

/-- The edge source comes up with an event, behind those it has (00_scope.md R14, 20_memory.md R59 a). -/
def offerEvent (w : EvWord) (s : State) : State := { s with events := s.events ++ [w] }

/-- One agent's turn. -/
def takeTurn (t : Turn) (s : State) : Outcome State :=
  match t with
  | .decoder => guardLaunch s (decoderTurn s)
  | .offer w => guardLaunch s (.next (offerEvent w s))
  | .consumer w => guardLaunch s (exec (decodeConsumer w) s)
  | .interpret => guardLaunch s (exec (.fiOutputs s.fi.frame) s)
  | .reset => exec .reset s
  | .cfg c => configure c s

/-- No other agent has a turn left: the decoder goes on with what is offered. With `FAULTS` non-empty an offered event can
never be accepted any more: the machine stops with the fault (60_exceptions.md R207; DESIGN CHOICE, assumption 10). -/
def lastTurn (s : State) : Outcome State :=
  if !s.faults.isEmpty && !s.events.isEmpty then guardLaunch s (.fault .reservedState)
  else guardLaunch s (decoderTurn s)

/-- One step of the machine: the next agent's turn. -/
def turnStep (s : State) : Outcome State :=
  match s.turns with
  | [] => lastTurn s
  | t :: rest => takeTurn t { s with turns := rest }

/-! Placing one instruction, for `State.withFetchWord`. -/

/-- An interval of each class under a well-formed configuration (40_classifier.md R103). -/
def nominalInterval (c : Thresholds) (cls : BitVec 3) : Ts :=
  if cls = 0 then 0
  else if cls = 1 then c.oneMin
  else if cls = 2 then c.twoMax
  else if cls = 3 then c.twentyMin
  else 0xFFFFFFFF

/-- The event at the decoder's port, and the decoder's turn now. -/
def offerNow (ev : Evw) (s : State) : State :=
  { s with
    faults := [], events := ev.word :: s.events, turns := .decoder :: s.turns,
    cfg := if s.cfg.wf then s.cfg else Thresholds.tc }

/-- The decoder in the state and with the event that make this its decode word. In Data, `BIT_COUNT` is 2, as PRE_FIRST_PAIR
leaves it, or 103 where the step is to complete a frame; a class code that no interval has (30_encoding.md R73) is
replaced by Long, which selects the same row (DESIGN CHOICE, assumption 21). -/
def placeEdw (w : Edw) (completing : Bool) (s : State) : State :=
  let cfg := if s.cfg.wf then s.cfg else Thresholds.tc
  let st := Psm.ofCode (edwSt w)
  offerNow { level := !edwEdge w, ts := s.prevTs + nominalInterval cfg (edwCls w) }
    { s with
      psm := st, waitCount := edwWait w,
      bitCount := if completing then 103 else if st = .data then 2 else s.bitCount }

/-- The consumer's turn now, with this word. -/
def issueNow (w : ConsumerWord) (s : State) : State :=
  { s with turns := .consumer w :: s.turns, cfg := if s.cfg.wf then s.cfg else Thresholds.tc }

/-- The state in which the very next step runs this instruction. -/
def placeInstr (i : Instr) (s : State) : State :=
  match encode i with
  | .timestamp w => offerNow (Evw.ofWord w) s
  | .edge w => offerNow (Evw.ofWord w) s
  | .classify w => offerNow (Evw.ofWord w) s
  | .psm w => placeEdw w false s
  | .completion w => placeEdw w true s
  | .consumer w => issueNow w s
  | .reset => { s with turns := .reset :: s.turns }

end Sys2Proof.Machine
end

