-- ==== Sys2Proof/Machine/Step.lean ====
section
/-! DEFINITION. The machine's one step, and the placing of one instruction where the next step runs it. -/

namespace Sys2Proof.Machine

/-- One step: the next agent's turn; a decoder step is one whole accepted event (00_scope.md R15, 20_memory.md R52). -/
def step (s : State) : Host.Outcome State Fault Refusal := turnStep s

/-- The state whose next step runs the instruction of this word of the opcode table; unchanged if the decoder rejects the
word (DESIGN CHOICE, assumptions 6, 7, 21). -/
def State.withFetchWord (s : State) (nbits w : Nat) : State :=
  match decodeTableWord nbits w with
  | some i => placeInstr i s
  | none => s

end Sys2Proof.Machine
end

