-- ==== Sys2Proof/Machine/Trace.lean ====
section
/-! DEFINITION. The trace notation of 30_encoding.md R84 and its pseudo-commands (R85), and the loading of a trace into the
environment's plans. The machine never reads a trace; this file says what a trace stands for. -/

namespace Sys2Proof.Machine

/-- A line of a trace (R84), pseudo-commands included (R85). -/
inductive Command where
  | reset
  | cfg (c : Thresholds)
  | ev (ts : Ts) (level : Bool)
  | pop
  | gap (d : Ts) (level : Bool)
  | pulse (c : PulseClass) (edge : Bool)
  | sync
deriving DecidableEq, Repr

/-- `n_c`: the nominal durations of R85 under `TC`. -/
def nominalPulse : PulseClass → Ts
  | .short => 50
  | .oneClock => 250
  | .twoClock => 500
  | .twentyClock => 5000
  | .long => 2000

/-- One turn of the environment or one event, what a command expands to. -/
inductive Action where
  | offer (ev : Evw)
  | turn (t : Turn)
deriving DecidableEq, Repr

/-- The turns of a CFG line (R84). Before the first event after a RESET line (`fresh`) it states the configuration of the run that
follows; as a change takes effect only through a reset (10_state.md R32, R230), it is set and RESET applied again
(DEDUCED, assumption 22). Anywhere else it is the host's setting alone, which a run refuses. -/
def cfgActions (fresh : Bool) (old new : Thresholds) : List Action :=
  if fresh && new != old then [.turn (.cfg new), .turn .reset] else [.turn (.cfg new)]

/-- The expansion of a trace (R85): t is the timestamp of the previous EV, after RESET the value of `PREV_TS_RESET` that the
trace states; `PULSE` (and `SYNC`) is defined only under `TC`, so a trace that uses it under another `CFG` has no expansion
(DEDUCED, assumption 22). The flag says that no event has come since the last RESET line. -/
def expandTrace (prevTsReset : Ts) : Bool → Thresholds → Ts → List Command → Option (List Action)
  | _, _, _, [] => some []
  | _, c, _, .reset :: rest => (expandTrace prevTsReset true c prevTsReset rest).map (.turn .reset :: ·)
  | fresh, c, t, .cfg c' :: rest => (expandTrace prevTsReset fresh c' t rest).map (cfgActions fresh c c' ++ ·)
  | _, c, _, .ev ts level :: rest => (expandTrace prevTsReset false c ts rest).map (.offer ⟨level, ts⟩ :: ·)
  | fresh, c, t, .pop :: rest => (expandTrace prevTsReset fresh c t rest).map (.turn (.consumer .pop) :: ·)
  | _, c, t, .gap d level :: rest => (expandTrace prevTsReset false c (t + d) rest).map (.offer ⟨level, t + d⟩ :: ·)
  | _, c, t, .pulse k edge :: rest =>
    if c = Thresholds.tc then
      (expandTrace prevTsReset false c (t + nominalPulse k) rest).map (.offer ⟨!edge, t + nominalPulse k⟩ :: ·)
    else none
  | _, c, t, .sync :: rest =>
    if c = Thresholds.tc then
      (expandTrace prevTsReset false c (t + nominalPulse .twentyClock) rest).map
        (.offer ⟨true, t + nominalPulse .twentyClock⟩ :: ·)
    else none

/-- The turns of an action: at an EV line the edge source offers the event, and then the decoder has its turn. A held event
stays offered while later lines go on (R137). -/
def actionTurns : Action → List Turn
  | .offer ev => [.offer ev.word, .decoder]
  | .turn t => [t]

/-- The machine with a trace's actions as the environment's plans. -/
def loadActions (as : List Action) (s : State) : State :=
  { s with turns := s.turns ++ as.flatMap actionTurns }

/-- The machine with a trace loaded; the trace states the value it assumes for `PREV_TS_RESET` (R85). R85 gives t only after an
EV or a RESET of the trace: before either, t is the loaded state's `PREV_TS` (DESIGN CHOICE, assumption 22). -/
def loadTrace (prevTsReset : Ts) (cs : List Command) (s : State) : Option State :=
  (expandTrace prevTsReset false s.cfg s.prevTs cs).map fun as => loadActions as s

/-! The event sequence of 41_state_machine.md R139 for a bit pattern. -/

/-- An event `d` µs after the time t. -/
def eventAfter (t d : Ts) (level : Bool) : EvWord := Evw.word { level := level, ts := t + d }

/-- The events for n slots from slot k on (R139 step 3): two OneClock events for a repeated bit, one TwoClock event for a
changed one. The levels do not matter in Data (R129). -/
def slotEvents (c : Thresholds) (f : Frame) : Nat → Nat → Ts → List EvWord
  | 0, _, _ => []
  | n + 1, k, t =>
    if f.getLsbD k = f.getLsbD (k - 1) then
      eventAfter t c.oneMin false :: eventAfter (t + c.oneMin) c.oneMin false ::
        slotEvents c f n (k + 1) (t + c.oneMin + c.oneMin)
    else eventAfter t c.twoMax false :: slotEvents c f n (k + 1) (t + c.twoMax)

/-- The whole sequence (R139) for the pattern `b[1..103]` of a frame, the previous event having been at time t: a TwentyClock
with `edge = 0`, a TwoClock with `edge = b[1] xor 1`, then slots 2..103. -/
def frameEvents (c : Thresholds) (t : Ts) (f : Frame) : List EvWord :=
  eventAfter t c.twentyMin true :: eventAfter (t + c.twentyMin) c.twoMax (f.getLsbD 1) ::
    slotEvents c f 102 2 (t + c.twentyMin + c.twoMax)

end Sys2Proof.Machine
end

