-- ==== Sys2Proof/Safety.lean ====
section
/-! DEFINITION. The terms claims about the machine use: whose turn it is and whether an event is accepted, the invariants
of 10_state.md R37, what a hang and a run's observation are (70_reset_and_hazards.md R240), and which frame slots
can still matter (10_state.md R36). -/

namespace Sys2Proof.Machine

/-! The next step. -/

/-- The next step is the decoder's turn. -/
def decoderMoves (s : State) : Bool :=
  match s.turns with
  | [] => true
  | .decoder :: _ => true
  | .offer _ :: _ => false
  | .consumer _ :: _ => false
  | .interpret :: _ => false
  | .reset :: _ => false
  | .cfg _ :: _ => false

/-- The next step accepts the event w: it is offered, it is the decoder's turn, the launch is not refused, `FAULTS` is empty
and nothing holds the step (41_state_machine.md R120, R137). -/
def accepts (w : EvWord) (s : State) : Bool :=
  decoderMoves s && (s.events.head? == some w) && s.cfg.wf && s.faults.isEmpty && !held (Evw.ofWord w) s

/-- The state in which the operation selected for an event runs: the turn and the event are taken, TIMESTAMP, EDGE and
CLASSIFY have run and the decode word is assembled (41_state_machine.md R120). -/
def sensed (ev : Evw) (s : State) : State :=
  { s with
    turns := s.turns.tail, events := s.events.tail, prevTs := ev.ts,
    wires := { dt := ev.ts - s.prevTs, edge := !ev.level, cls := classOf s.cfg (ev.ts - s.prevTs), edw := edwFor ev s,
               status := .none, dbgSync := s.params.hasDebug, dbgDerr := false } }

/-- The state s with only what EVERY accepted event changes, as it stands in t: `PREV_TS` (40_classifier.md R100), and of the
model's own the step's values, the event history, the event and the turn taken, and `running`. An operation that writes
nothing leaves `t = afterEvent ev s t`. -/
def afterEvent (ev : Evw) (s t : State) : State :=
  { s with
    prevTs := ev.ts, wires := t.wires, history := t.history, events := s.events.tail, turns := s.turns.tail,
    running := true }

/-- The class of the interval an event ends (40_classifier.md R100, R102). -/
def classFor (ev : Evw) (s : State) : PulseClass := classOf s.cfg (ev.ts - s.prevTs)

/-- The entry the next step adds to the event history (60_exceptions.md R205), given its report. -/
def entryFor (ev : Evw) (s : State) (status : EvStatus) : Entry :=
  { ts := ev.ts, level := ev.level, dt := ev.ts - s.prevTs, cls := classFor ev s, edw := edwFor ev s,
    op := selected ev s, status := status,
    strobes := if s.params.hasDebug then some { sync := true, derr := status == .dataError } else none }

/-! Invariants (10_state.md R37). -/

/-- I-A: slot 0 is zero. -/
abbrev invSlotZero (s : State) : Prop := s.frame.getLsbD 0 = false
/-- I-B: the reserved code does not occur. -/
abbrev invNotReserved (s : State) : Prop := s.psm ≠ .reserved
/-- I-C: the counters are 0 in Preamble. -/
abbrev invPreamble (s : State) : Prop := s.psm = .preamble → s.bitCount = 0 ∧ s.waitCount = false
/-- I-D: the index range in Data. -/
abbrev invData (s : State) : Prop := s.psm = .data → 2 ≤ s.bitCount.toNat ∧ s.bitCount.toNat ≤ 103
/-- I-E: between steps `BIT_COUNT` is at most 103. -/
abbrev invBitCount (s : State) : Prop := s.bitCount.toNat ≤ 103
/-- I-F: slot 0 of every queued frame is zero. -/
abbrev invQueue (s : State) : Prop := ∀ f ∈ s.outFifo, f.getLsbD 0 = false
/-- No model fault has been raised (60_exceptions.md R207: RESERVED_STATE is unreachable). -/
abbrev invNoFault (s : State) : Prop := s.faults = []

/-- The invariants of R37 that a state shows by itself. -/
abbrev Invariants (s : State) : Prop :=
  invSlotZero s ∧ invNotReserved s ∧ invPreamble s ∧ invData s ∧ invBitCount s ∧ invQueue s ∧ invNoFault s

/-- The queue holds at most `FIFO_DEPTH` frames (10_state.md R33). -/
abbrev queueBounded (s : State) : Prop := ∀ d, s.params.fifoDepth = some d → s.outFifo.length ≤ d

/-! Which slots can matter (10_state.md R36 b, I-D). -/

/-- Slot i has been written since the last entry to Preamble, and a later step may read or emit it. -/
def liveSlot (s : State) (i : Nat) : Prop := s.psm = .data ∧ i < s.bitCount.toNat

/-- The two states differ at most in slots of the frame buffer that are not live. -/
def sameButStale (s t : State) : Prop :=
  t = { s with frame := t.frame } ∧ ∀ i, liveSlot s i → readSlot t.frame i = readSlot s.frame i

/-! Frames. -/

/-- The decoder's own state is the same (10_state.md R20, R27). -/
def sameDecoder (s t : State) : Prop :=
  t.psm = s.psm ∧ t.bitCount = s.bitCount ∧ t.waitCount = s.waitCount ∧ t.prevTs = s.prevTs ∧ t.frame = s.frame

/-- All frames completed so far, in the order pushed: those popped and those queued. -/
def pushed (s : State) : List Frame := s.popped ++ s.outFifo

/-! A hang (70_reset_and_hazards.md R240). -/

/-- Could the turn end the hold of a state: a pop (41_state_machine.md R137), a reset (70_reset_and_hazards.md R230), or another
configuration, which is refused during a run (60_exceptions.md R208). -/
def mayLift (s : State) : Turn → Bool
  | .consumer .pop => true
  | .consumer (.nibblePack _) => false
  | .consumer (.digitMap _) => false
  | .consumer (.tempDecode _) => false
  | .consumer (.fiOutputs _) => false
  | .reset => true
  | .cfg c => c != s.cfg
  | .offer _ => false
  | .decoder => false
  | .interpret => false

/-- A hang: the event offered is held, and no turn that is left could end the hold. -/
def hung (s : State) : Bool := isHeld s && !s.turns.any (mayLift s)

/-- The FI's four outputs for a frame (42_frame_interpreter.md R172). -/
structure Readings where
  temp1 : Temp
  temp1Err : Bool
  temp2 : Temp
  temp2Err : Bool
deriving DecidableEq, Repr

/-- The readings of one frame. -/
def readingsOf (f : Frame) : Readings :=
  { temp1 := tempWord f Config.p1Offset, temp1Err := tempErr f Config.p1Offset,
    temp2 := tempWord f Config.p2Offset, temp2Err := tempErr f Config.p2Offset }

/-- The observation of a run: the frames popped, the interpreter's outputs for each, the event history. -/
structure Observation where
  frames : List Frame
  readings : List Readings
  history : List Entry
deriving DecidableEq, Repr

/-- What a run shows (R240). -/
def observe (s : State) : Observation :=
  { frames := s.popped, readings := s.popped.map readingsOf, history := s.history }

end Sys2Proof.Machine
end

