-- ==== Sys2Proof/Certificates/Slice0/Obligations.lean ====
section
/-! DEFINITION. The statements for the provers. "accepts w s" says that the next step takes the event w; `afterEvent ev s t` is s
with only what every accepted event changes (PREV_TS and the model's own records), so an equation over it is a frame. -/

open Sys2Proof Sys2Proof.Machine

/-! ## A step runs the decoded operation; encodings -/

/-- 41_state_machine.md R120: a step on an accepted event runs the operation its decode word decodes to, on the state that
TIMESTAMP, EDGE and CLASSIFY leave, and then records the step. -/
def Obligations.DecoderStepRunsDecodedOperation : Prop :=
  ∀ (s : State) (w : EvWord) (i : Instr), accepts w s = true →
    decode (.psm (edwFor (Evw.ofWord w) s)) = .ok i →
    step s = andThen (exec i (sensed (Evw.ofWord w) s)) fun u => .next (leaveStep (Evw.ofWord w) i u)

/-- The turns of the consumer and of the host run the operation their word decodes to, on the state with the turn taken
(00_scope.md R14, 42_frame_interpreter.md R172). That the interpret turn reads the frame at the FI's input is the model's choice
(assumption 15), and so is that RESET runs whatever the configuration (assumption 12). -/
def Obligations.ConsumerAndResetStepsRunDecodedOperation : Prop :=
  ∀ (s : State) (rest : List Turn) (i : Instr),
    (∀ w, s.turns = .consumer w :: rest → s.cfg.wf = true → decode (.consumer w) = .ok i →
      step s = exec i { s with turns := rest }) ∧
    (s.turns = .interpret :: rest → s.cfg.wf = true → decode (.consumer (.fiOutputs s.fi.frame)) = .ok i →
      step s = exec i { s with turns := rest }) ∧
    (s.turns = .reset :: rest → decode .reset = .ok i → step s = exec i { s with turns := rest })

/-- Decode and encode agree on every well-formed operation, every operand at every value. -/
def Obligations.DecodeInvertsEncode : Prop :=
  ∀ i : Instr, i.wf = true → decode (encode i) = .ok i

/-- Every word the decoder accepts is the word of one well-formed operation: no bit of it is dropped (30_encoding.md R71, R75,
R76, R80). -/
def Obligations.EncodeInvertsDecode : Prop :=
  ∀ (w : OpWord) (i : Instr), decode w = .ok i → i.wf = true ∧ encode i = w

/-- Words written out from 30_encoding.md R71, R74, R76, R80 and 95_test_vectors.md section 2.3. -/
def Obligations.SpecWordsDecode : Prop :=
  decode (.psm 0b0001101) = .ok (.idleSync true) ∧
  decode (.psm 0b0001110) = .ok (.idleStay 0b011 true false) ∧
  decode (.psm 0b0101010) = .ok (.preFirstPair true false) ∧
  decode (.psm 0b0110000) = .ok (.preError 0b100 false false) ∧
  decode (.psm 0b1000111) = .ok (.dataRepeat true) ∧
  decode (.psm 0b1001001) = .ok (.dataPairError false) ∧
  decode (.psm 0b1001100) = .ok (.dataClassError 0b011 false false) ∧
  decode (.completion 0b1001010) = .ok (.completeToggle true) ∧
  decode (.timestamp 0x100001388) = .ok (.timestamp { level := true, ts := 5000 }) ∧
  decode (.consumer (.digitMap 0b1001)) = .ok .digit2 ∧
  decode (.consumer (.tempDecode 0b1)) = .ok .tempDecodeP2

/-- 30_encoding.md R75, in the words of its st, cls, edge and wait columns, for all 128 decode words; no two rows of one priority
match one word, and every word has a row. (R75's words "each state has exactly one priority-1 row" fail for the reserved state,
whose one row has priority 0 in R75's own table, assumption 26; they are not stated here.) -/
def Obligations.OperationMapByColumns : Prop :=
  (∀ (cls : BitVec 3) (edge wait : Bool),
    decodeEdw (edwPack 0b00 cls edge wait) =
      (if cls = 0b011 ∧ edge = false then .idleSync wait else .idleStay cls edge wait) ∧
    decodeEdw (edwPack 0b01 cls edge wait) =
      (if cls = 0b010 then .preFirstPair edge wait
       else if cls = 0b001 ∧ edge = true then .preHalf wait
       else if cls = 0b011 ∧ edge = false then .preResync wait
       else .preError cls edge wait) ∧
    decodeEdw (edwPack 0b10 cls edge wait) =
      (if cls = 0b001 then (if wait = true then .dataRepeat edge else .dataHalf edge)
       else if cls = 0b010 then (if wait = true then .dataPairError edge else .dataToggle edge)
       else .dataClassError cls edge wait) ∧
    decodeEdw (edwPack 0b11 cls edge wait) = .reservedState cls edge wait) ∧
  ∀ w : Edw,
    (edwTable.filter fun r => r.prio == 0 && r.hit w).length ≤ 1 ∧
    (edwTable.filter fun r => r.prio == 1 && r.hit w).length ≤ 1 ∧ (edwTable.any fun r => r.hit w) = true

/-! ## The classifier -/

/-- 40_classifier.md R100: TIMESTAMP's result, and PREV_TS after every accepted event whatever operation follows. -/
def Obligations.TimestampResultAndUnconditionalUpdate : Prop :=
  (∀ (ev : Evw) (s : State), ∃ t, exec (.timestamp ev) s = .next t ∧
    t.wires.dt.toNat = (ev.ts.toNat + 2 ^ 32 - s.prevTs.toNat) % 2 ^ 32 ∧
    t = { s with prevTs := ev.ts, wires := { s.wires with dt := t.wires.dt } }) ∧
  (∀ (s t : State) (w : EvWord), accepts w s = true → step s = .next t → t.prevTs = (Evw.ofWord w).ts)

/-- 40_classifier.md R101: EDGE's result, a value of the step that becomes EDW[1]. -/
def Obligations.EdgeResult : Prop :=
  ∀ (ev : Evw) (s : State),
    exec (.edgeBit ev) s = .next { s with wires := { s.wires with edge := !ev.level } } ∧
    edwEdge (edwFor ev s) = !ev.level

/-- 40_classifier.md R102: CLASSIFY's result is the priority chain, and under a well-formed configuration the five
intervals; its code becomes EDW[4:2]. -/
def Obligations.ClassifyResult : Prop :=
  ∀ (ev : Evw) (s : State), ∃ k,
    exec (.classify ev) s = .next { s with wires := { s.wires with cls := k } } ∧
    k = (if s.wires.dt.toNat < s.cfg.oneMin.toNat then .short
         else if s.wires.dt.toNat ≤ s.cfg.oneMax.toNat then .oneClock
         else if s.wires.dt.toNat ≤ s.cfg.twoMax.toNat then .twoClock
         else if s.cfg.twentyMin.toNat ≤ s.wires.dt.toNat ∧ s.wires.dt.toNat ≤ s.cfg.twentyMax.toNat then .twentyClock
         else .long) ∧
    (s.cfg.wf = true →
      (k = .short ↔ s.wires.dt.toNat < s.cfg.oneMin.toNat) ∧
      (k = .oneClock ↔ s.cfg.oneMin.toNat ≤ s.wires.dt.toNat ∧ s.wires.dt.toNat ≤ s.cfg.oneMax.toNat) ∧
      (k = .twoClock ↔ s.cfg.oneMax.toNat < s.wires.dt.toNat ∧ s.wires.dt.toNat ≤ s.cfg.twoMax.toNat) ∧
      (k = .twentyClock ↔ s.cfg.twentyMin.toNat ≤ s.wires.dt.toNat ∧ s.wires.dt.toNat ≤ s.cfg.twentyMax.toNat) ∧
      (k = .long ↔ (s.cfg.twoMax.toNat < s.wires.dt.toNat ∧ s.wires.dt.toNat < s.cfg.twentyMin.toNat) ∨
        s.cfg.twentyMax.toNat < s.wires.dt.toNat)) ∧
    ∀ edge, edwCls (edwWith s k edge) = k.code

/-- 40_classifier.md R103: exactly one class for every interval and configuration, and under a well-formed configuration each
of the five classes at the interval the rule names. -/
def Obligations.EveryClassIsReached : Prop :=
  (∀ (c : Thresholds) (dt : Ts), ∃! k, classOf c dt = k) ∧
  (∀ c : Thresholds, c.wf = true →
    classOf c 0 = .short ∧ classOf c c.oneMin = .oneClock ∧ classOf c c.twoMax = .twoClock ∧
    classOf c c.twentyMin = .twentyClock ∧ classOf c 0xFFFFFFFF = .long)

/-- 40_classifier.md R104: TwentyClock lies strictly above TWO_MAX and in its own window, whatever the configuration; the gap
below TWENTY_MIN is Long. -/
def Obligations.GapBelowTwentyClockIsLong : Prop :=
  (∀ (c : Thresholds) (dt : Ts), classOf c dt = .twentyClock →
    c.twoMax.toNat < dt.toNat ∧ c.twentyMin.toNat ≤ dt.toNat ∧ dt.toNat ≤ c.twentyMax.toNat) ∧
  (∀ (c : Thresholds) (dt : Ts), c.wf = true → c.twoMax.toNat < dt.toNat → dt.toNat < c.twentyMin.toNat →
    classOf c dt = .long)

/-! ## The operations of the protocol state machine, one by one (results and frames) -/

/-- 41_state_machine.md R123, R124: IDLE_SYNC and IDLE_STAY complete in every state, with these results and nothing else. -/
def Obligations.IdleOperationResults : Prop :=
  ∀ (cls : BitVec 3) (edge wait : Bool) (s : State),
    exec (.idleSync wait) s = .next { s with bitCount := 0, waitCount := false, psm := .preamble } ∧
    exec (.idleStay cls edge wait) s = .next s

/-- 41_state_machine.md R125: PRE_FIRST_PAIR's two pre-incremented writes, for every BIT_COUNT whose slots exist. -/
def Obligations.PreFirstPairResult : Prop :=
  ∀ (edge wait : Bool) (s : State), s.bitCount.toNat ≤ 101 →
    ∃ t, exec (.preFirstPair edge wait) s = .next t ∧
      t = { s with frame := t.frame, bitCount := t.bitCount, psm := .data } ∧
      t.bitCount.toNat = s.bitCount.toNat + 2 ∧
      ∀ i, readSlot t.frame i =
        if i = s.bitCount.toNat + 1 then !edge
        else if i = s.bitCount.toNat + 2 then edge else readSlot s.frame i

/-- 41_state_machine.md R126 to R128, 60_exceptions.md R200: PRE_HALF and PRE_RESYNC change nothing; PRE_ERROR writes STATE and
reports PREAMBLE_ERROR. -/
def Obligations.PreambleOperationResults : Prop :=
  ∀ (cls : BitVec 3) (edge wait : Bool) (s : State),
    exec (.preHalf wait) s = .next s ∧ exec (.preResync wait) s = .next s ∧
    exec (.preError cls edge wait) s =
      .next { s with psm := .idle, wires := { s.wires with status := .preambleError, dbgDerr := false } }

/-- 41_state_machine.md R130, R133, R134, 60_exceptions.md R201: DATA_HALF sets WAIT_COUNT; the two data errors write STATE,
report DATA_ERROR and raise DBG_DERR if it exists. -/
def Obligations.DataHalfAndErrorResults : Prop :=
  ∀ (cls : BitVec 3) (edge wait : Bool) (s : State),
    exec (.dataHalf edge) s = .next { s with waitCount := true } ∧
    exec (.dataPairError edge) s =
      .next { s with psm := .idle, wires := { s.wires with status := .dataError, dbgDerr := s.params.hasDebug } } ∧
    exec (.dataClassError cls edge wait) s =
      .next { s with psm := .idle, wires := { s.wires with status := .dataError, dbgDerr := s.params.hasDebug } }

/-- 41_state_machine.md R131, R132: the bit writes below the last slot: slot BIT_COUNT gets the previous slot or its
complement, BIT_COUNT goes up by one, DATA_REPEAT clears WAIT_COUNT, every other slot and register stays. -/
def Obligations.DataBitWriteResults : Prop :=
  ∀ (edge : Bool) (s : State), 1 ≤ s.bitCount.toNat → s.bitCount.toNat ≤ 102 →
    (∃ t, exec (.dataRepeat edge) s = .next t ∧
      t = { s with frame := t.frame, bitCount := t.bitCount, waitCount := false } ∧
      t.bitCount.toNat = s.bitCount.toNat + 1 ∧
      ∀ i, readSlot t.frame i =
        if i = s.bitCount.toNat then readSlot s.frame (s.bitCount.toNat - 1) else readSlot s.frame i) ∧
    (∃ t, exec (.dataToggle edge) s = .next t ∧
      t = { s with frame := t.frame, bitCount := t.bitCount } ∧
      t.bitCount.toNat = s.bitCount.toNat + 1 ∧
      ∀ i, readSlot t.frame i =
        if i = s.bitCount.toNat then !readSlot s.frame (s.bitCount.toNat - 1) else readSlot s.frame i)

/-- 41_state_machine.md R131, R132, R136: at BIT_COUNT 103, with room in the queue, the write completes the frame: the buffer's
content with its last slot written goes to the queue's tail, the buffer is cleared, the counters and STATE are reset,
FRAME_DONE is reported. -/
def Obligations.CompletingBitWriteResults : Prop :=
  ∀ (edge : Bool) (s : State), s.bitCount.toNat = 103 → fifoFull s = false →
    (∃ g t, exec (.dataRepeat edge) s = .next t ∧
      t = { s with
            outFifo := s.outFifo ++ [g], frame := 0, bitCount := 0, waitCount := false, psm := .idle,
            wires := { s.wires with status := .frameDone, dbgDerr := false } } ∧
      ∀ i, g.getLsbD i = if i = 103 then readSlot s.frame 102 else readSlot s.frame i) ∧
    (∃ g t, exec (.dataToggle edge) s = .next t ∧
      t = { s with
            outFifo := s.outFifo ++ [g], frame := 0, bitCount := 0, waitCount := false, psm := .idle,
            wires := { s.wires with status := .frameDone, dbgDerr := false } } ∧
      ∀ i, g.getLsbD i = if i = 103 then !readSlot s.frame 102 else readSlot s.frame i)

/-- 41_state_machine.md R136: the completion sub-step, below its threshold (nothing), at it with room (push, clear, reset,
report). That with no room it changes nothing, in states no step reaches, is the model's choice (assumption 8). -/
def Obligations.CompletionSubStepResults : Prop :=
  ∀ (edge : Bool) (s : State),
    (s.bitCount.toNat < 104 → exec (.completeRepeat edge) s = .next s ∧ exec (.completeToggle edge) s = .next s) ∧
    (104 ≤ s.bitCount.toNat → fifoFull s = true →
      exec (.completeRepeat edge) s = .next s ∧ exec (.completeToggle edge) s = .next s) ∧
    (104 ≤ s.bitCount.toNat → fifoFull s = false →
      ∃ g t, exec (.completeRepeat edge) s = .next t ∧ exec (.completeToggle edge) s = .next t ∧
        t = { s with
              outFifo := s.outFifo ++ [g], frame := 0, bitCount := 0, waitCount := false, psm := .idle,
              wires := { s.wires with status := .frameDone, dbgDerr := false } } ∧
        ∀ i, g.getLsbD i = readSlot s.frame i)

/-- A bit write that would complete a frame has no effect while the queue is full. 41_state_machine.md R137 and 20_memory.md R58 say
so of the step; that the operations DATA_REPEAT and DATA_TOGGLE themselves hold is the model's choice (assumption 8). -/
def Obligations.CompletingWriteHoldsOnFullQueue : Prop :=
  ∀ (edge : Bool) (s : State), s.bitCount.toNat = 103 → fifoFull s = true →
    exec (.dataRepeat edge) s = .next s ∧ exec (.dataToggle edge) s = .next s

/-- The model's choice of assumption 9 (20_memory.md R50: indices run 0..103): where a bit write uses an index that names no slot
it faults with BIT_COUNT's value; no run from reset reaches such a state. PRE_FIRST_PAIR from 127 wraps to the hardwired
slot 0 and completes. -/
def Obligations.WriteOutsideBufferFaults : Prop :=
  ∀ (edge wait : Bool) (s : State),
    (s.bitCount.toNat = 0 ∨ 104 ≤ s.bitCount.toNat →
      exec (.dataRepeat edge) s = .fault (.noSuchSlot s.bitCount) ∧
      exec (.dataToggle edge) s = .fault (.noSuchSlot s.bitCount)) ∧
    (103 ≤ s.bitCount.toNat → s.bitCount.toNat ≤ 126 →
      exec (.preFirstPair edge wait) s = .fault (.noSuchSlot (s.bitCount + 1))) ∧
    (s.bitCount.toNat = 102 → exec (.preFirstPair edge wait) s = .fault (.noSuchSlot (s.bitCount + 2))) ∧
    (s.bitCount.toNat = 127 → ∃ t, exec (.preFirstPair edge wait) s = .next t ∧
      t = { s with frame := t.frame, bitCount := 1, psm := .data } ∧
      ∀ i, readSlot t.frame i = if i = 1 then edge else readSlot s.frame i)

/-- 41_state_machine.md R135: RESERVED_STATE completes with the model fault recorded and nothing else changed. -/
def Obligations.ReservedStateResult : Prop :=
  ∀ (cls : BitVec 3) (edge wait : Bool) (s : State),
    ∃ t, exec (.reservedState cls edge wait) s = .next t ∧ t = { s with faults := t.faults } ∧
      ∀ f, f ∈ t.faults ↔ f ∈ s.faults ∨ f = .reservedState

/-! ## Whole decoder steps -/

/-- 41_state_machine.md R122 to R124: an accepted event in Idle: TwentyClock with level 1 (edge 0) goes to Preamble with both
counters 0; every other event changes nothing but PREV_TS. Both report NONE. -/
def Obligations.IdleStep : Prop :=
  ∀ (s : State) (w : EvWord), accepts w s = true → s.psm = .idle →
    ∃ t, step s = .next t ∧ t.history = s.history ++ [entryFor (Evw.ofWord w) s .none] ∧
      t = if classFor (Evw.ofWord w) s = .twentyClock ∧ (Evw.ofWord w).level = true then
            { afterEvent (Evw.ofWord w) s t with psm := .preamble, bitCount := 0, waitCount := false }
          else afterEvent (Evw.ofWord w) s t

/-- 41_state_machine.md R125 to R128: an accepted event in Preamble, with the counters 0 (10_state.md R37 I-C). -/
def Obligations.PreambleStep : Prop :=
  ∀ (s : State) (w : EvWord), accepts w s = true → s.psm = .preamble → s.bitCount = 0 → s.waitCount = false →
    let ev := Evw.ofWord w
    ∃ t, step s = .next t ∧
      (classFor ev s = .twoClock →
        t = { afterEvent ev s t with frame := t.frame, bitCount := 2, psm := .data } ∧
        (∀ i, readSlot t.frame i = if i = 1 then ev.level else if i = 2 then !ev.level else readSlot s.frame i) ∧
        t.history = s.history ++ [entryFor ev s .none]) ∧
      ((classFor ev s = .oneClock ∧ ev.level = false) ∨ (classFor ev s = .twentyClock ∧ ev.level = true) →
        t = afterEvent ev s t ∧ t.history = s.history ++ [entryFor ev s .none]) ∧
      (classFor ev s = .short ∨ classFor ev s = .long ∨ (classFor ev s = .oneClock ∧ ev.level = true) ∨
          (classFor ev s = .twentyClock ∧ ev.level = false) →
        t = { afterEvent ev s t with psm := .idle } ∧ t.history = s.history ++ [entryFor ev s .preambleError])

/-- 41_state_machine.md R130, R133, R134, 60_exceptions.md R201, R206: the accepted events in Data that write no bit, at any
BIT_COUNT and with either level: the first half of a pair; TwoClock with a half bit pending, and Short, TwentyClock, Long,
which go to Idle and push nothing. -/
def Obligations.DataStepWithoutWrite : Prop :=
  ∀ (s : State) (w : EvWord), accepts w s = true → s.psm = .data →
    let ev := Evw.ofWord w
    (classFor ev s = .oneClock → s.waitCount = false →
      ∃ t, step s = .next t ∧ t = { afterEvent ev s t with waitCount := true } ∧
        t.history = s.history ++ [entryFor ev s .none]) ∧
    ((classFor ev s = .twoClock ∧ s.waitCount = true) ∨ classFor ev s = .short ∨ classFor ev s = .twentyClock ∨
        classFor ev s = .long →
      ∃ t, step s = .next t ∧ t = { afterEvent ev s t with psm := .idle } ∧
        t.history = s.history ++ [entryFor ev s .dataError])

/-- 41_state_machine.md R131, R132, R136: the accepted events in Data that write a bit (OneClock with a half bit pending repeats
the previous bit, TwoClock without one toggles it), below the last slot and at it. -/
def Obligations.DataStepWithWrite : Prop :=
  ∀ (s : State) (w : EvWord) (flip : Bool), accepts w s = true → s.psm = .data → 1 ≤ s.bitCount.toNat →
    (classFor (Evw.ofWord w) s = .oneClock ∧ s.waitCount = true ∧ flip = false) ∨
      (classFor (Evw.ofWord w) s = .twoClock ∧ s.waitCount = false ∧ flip = true) →
    let ev := Evw.ofWord w
    let bit := xor (readSlot s.frame (s.bitCount.toNat - 1)) flip
    (s.bitCount.toNat ≤ 102 →
      ∃ t, step s = .next t ∧
        t = { afterEvent ev s t with frame := t.frame, bitCount := s.bitCount + 1, waitCount := false } ∧
        (∀ i, readSlot t.frame i = if i = s.bitCount.toNat then bit else readSlot s.frame i) ∧
        t.history = s.history ++ [entryFor ev s .none]) ∧
    (s.bitCount.toNat = 103 →
      ∃ g t, step s = .next t ∧
        t = { afterEvent ev s t with
              outFifo := s.outFifo ++ [g], frame := 0, bitCount := 0, waitCount := false, psm := .idle } ∧
        (∀ i, g.getLsbD i = if i = 103 then bit else readSlot s.frame i) ∧
        t.history = s.history ++ [entryFor ev s .frameDone])

/-- 41_state_machine.md R135: an accepted event in the reserved state records the fault, updates PREV_TS and reports NONE. -/
def Obligations.ReservedStateStep : Prop :=
  ∀ (s : State) (w : EvWord), accepts w s = true → s.psm = .reserved →
    ∃ t, step s = .next t ∧ t = { afterEvent (Evw.ofWord w) s t with faults := [.reservedState] } ∧
      t.history = s.history ++ [entryFor (Evw.ofWord w) s .none]

/-- 41_state_machine.md R137: when the decoder holds, and that it holds on nothing else: its turn changes nothing, not even
PREV_TS, and the event stays offered. -/
def Obligations.HeldStepChangesNothing : Prop :=
  (∀ (ev : Evw) (s : State), held ev s = true ↔
    ((∃ e, selected ev s = .dataRepeat e) ∨ (∃ e, selected ev s = .dataToggle e)) ∧ s.bitCount.toNat = 103 ∧
      ∃ d, s.params.fifoDepth = some d ∧ d ≤ s.outFifo.length) ∧
  (∀ (s : State) (w : EvWord) (rest : List EvWord), decoderMoves s = true → s.cfg.wf = true → s.faults = [] →
    s.events = w :: rest → held (Evw.ofWord w) s = true → step s = .next { s with turns := s.turns.tail })

/-- 20_memory.md R58, 41_state_machine.md R137: from a queue within its capacity, a consumer's pop lifts the hold, and the next
decoder's turn runs the held event whole, with the timestamp it was offered with. -/
def Obligations.PopLiftsTheHold : Prop :=
  ∀ (s : State) (w : EvWord) (rest : List EvWord) (ts : List Turn),
    queueBounded s → s.params.wf = true → s.cfg.wf = true → s.faults = [] → s.events = w :: rest →
    held (Evw.ofWord w) s = true → s.turns = .consumer .pop :: .decoder :: ts →
    ∃ u, step s = .next u ∧ accepts w u = true ∧
      selected (Evw.ofWord w) u = selected (Evw.ofWord w) s ∧
      ((Evw.ofWord w).ts - u.prevTs = (Evw.ofWord w).ts - s.prevTs)

/-- 41_state_machine.md R137, 70_reset_and_hazards.md R240: if no turn that is left could end the hold, a held decoder never moves
again, whatever the other turns are; with no turn left the machine never moves at all. -/
def Obligations.HungMachineNeverMoves : Prop :=
  ∀ (s : State) (n : Nat), hung s = true → s.cfg.wf = true → s.faults = [] →
    (∃ t, Host.Core.run Sys2Proof.core n s = .next t ∧ hung t = true ∧ sameDecoder s t ∧ t.cfg = s.cfg ∧
      t.outFifo = s.outFifo ∧ t.popped = s.popped ∧ t.history = s.history ∧ s.events <+: t.events) ∧
    (s.turns = [] → Host.Core.run Sys2Proof.core n s = .next s)

/-- 60_exceptions.md R202: the one report of a step on an accepted event, by the operation selected. -/
def Obligations.OneReportPerStep : Prop :=
  ∀ (s t : State) (w : EvWord), accepts w s = true → step s = .next t →
    ∃ st, t.history = s.history ++ [entryFor (Evw.ofWord w) s st] ∧
      (st = .preambleError ↔ ∃ c e k, selected (Evw.ofWord w) s = .preError c e k) ∧
      (st = .dataError ↔ (∃ e, selected (Evw.ofWord w) s = .dataPairError e) ∨
        ∃ c e k, selected (Evw.ofWord w) s = .dataClassError c e k) ∧
      (st = .frameDone ↔ ((∃ e, selected (Evw.ofWord w) s = .dataRepeat e) ∨
          ∃ e, selected (Evw.ofWord w) s = .dataToggle e) ∧ s.bitCount.toNat = 103)

/-- 60_exceptions.md R205: a step whose report is an error changes only STATE, to Idle, besides PREV_TS; nothing is saved. Its
history entry is what the error records. -/
def Obligations.ErrorChangesOnlyState : Prop :=
  ∀ (s t : State) (w : EvWord) (st : EvStatus), accepts w s = true → step s = .next t →
    t.history = s.history ++ [entryFor (Evw.ofWord w) s st] → st = .preambleError ∨ st = .dataError →
    t = { afterEvent (Evw.ofWord w) s t with psm := .idle }

/-- 60_exceptions.md R215: every step pulses DBG_SYNC and only a data error DBG_DERR, if they exist. DBG_SYNC is low after the step
by R215; that DBG_DERR is low between steps is the model's choice (assumption 23). -/
def Obligations.StrobesOfAStep : Prop :=
  ∀ (s t : State) (w : EvWord), accepts w s = true → step s = .next t →
    t.wires.dbgSync = false ∧ t.wires.dbgDerr = false ∧
    ∃ e, t.history = s.history ++ [e] ∧
      e.strobes = if s.params.hasDebug then some { sync := true, derr := e.status == .dataError } else none

/-- 60_exceptions.md R206: in every state that the invariants admit, with a well-formed configuration, and on every turn but a
configuration's, the machine goes on: no operation stops it. -/
def Obligations.NoOperationStopsTheMachine : Prop :=
  ∀ s : State, Invariants s → s.cfg.wf = true → (∀ c rest, s.turns ≠ .cfg c :: rest) → ∃ t, step s = .next t

/-- 41_state_machine.md R138: after PRE_FIRST_PAIR from BIT_COUNT 0 the first Data write rewrites slot 2: DATA_TOGGLE with the same
value, DATA_REPEAT with the first bit. -/
def Obligations.FirstDataWriteRewritesSlotTwo : Prop :=
  ∀ (edge wait e : Bool) (s u : State), s.bitCount = 0 → exec (.preFirstPair edge wait) s = .next u →
    readSlot u.frame 2 = edge ∧
    (∃ t, exec (.dataToggle e) u = .next t ∧ readSlot t.frame 2 = edge ∧ t.bitCount = 3) ∧
    (∃ t, exec (.dataRepeat e) u = .next t ∧ readSlot t.frame 2 = !edge ∧ t.bitCount = 3)

/-- With no event offered the decoder's turn changes nothing (60_exceptions.md R217, 70_reset_and_hazards.md R231). -/
def Obligations.DecoderWaitsForAnEvent : Prop :=
  ∀ s : State, decoderMoves s = true → s.cfg.wf = true → s.events = [] →
    step s = .next { s with turns := s.turns.tail }

/-! ## The queue, the consumer and the host -/

/-- 20_memory.md R57: POP removes the head and returns it to the consumer (it joins the frames popped). That the frame then stands
at the FI's input is the model's choice (assumption 15), and so is that POP on an empty queue changes nothing
(assumption 13). -/
def Obligations.PopResult : Prop :=
  ∀ s : State,
    (∀ f rest, s.outFifo = f :: rest →
      exec .pop s = .next
        { s with outFifo := rest, popped := s.popped ++ [f], fi := { s.fi with frame := f } }) ∧
    (s.outFifo = [] → exec .pop s = .next s)

/-- 20_memory.md R53, R57, 60_exceptions.md R203: the consumer's turns (a pop, any use of the FI) never change the decoder, its
configuration, its faults, its events or its history; the queue loses its head or nothing. -/
def Obligations.ConsumerNeverChangesTheDecoder : Prop :=
  ∀ (s t : State) (rest : List Turn), (∃ w, s.turns = .consumer w :: rest) ∨ s.turns = .interpret :: rest →
    step s = .next t →
    sameDecoder s t ∧ t.cfg = s.cfg ∧ t.params = s.params ∧ t.faults = s.faults ∧ t.events = s.events ∧
    t.history = s.history ∧ t.turns = rest ∧
    ((t.outFifo = s.outFifo ∧ t.popped = s.popped) ∨
      ∃ f, s.outFifo = f :: t.outFifo ∧ t.popped = s.popped ++ [f])

/-- 20_memory.md R59 (b): frames leave in the order pushed, each once: a step other than a reset keeps the sequence of the frames
completed so far, or appends one to it, and the frames popped are a prefix of it. -/
def Obligations.FramesLeaveInOrder : Prop :=
  ∀ s t : State, step s = .next t → s.turns.head? ≠ some .reset →
    (pushed t = pushed s ∨ ∃ g, pushed t = pushed s ++ [g]) ∧ s.popped <+: t.popped ∧ t.popped <+: pushed s

/-- 20_memory.md R59 (a): events are handled one at a time in the order offered, none twice and none skipped: a step takes the
head of the events and records it, or takes none and records none; only the edge source's turn adds one, at the end. -/
def Obligations.EventsHandledInOrder : Prop :=
  ∀ s t : State, step s = .next t →
    (t.history = s.history ∧
      (t.events = s.events ∨ ∃ w rest, s.turns = .offer w :: rest ∧ t.events = s.events ++ [w])) ∨
    ∃ w st, s.events = w :: t.events ∧ t.history = s.history ++ [entryFor (Evw.ofWord w) s st]

/-- 10_state.md R33, 20_memory.md R56: no step makes the queue exceed FIFO_DEPTH. -/
def Obligations.QueueStaysWithinItsDepth : Prop :=
  ∀ s t : State, queueBounded s → step s = .next t → queueBounded t

/-- 10_state.md R32, 60_exceptions.md R208: from a reset to the end of the run (70_reset_and_hazards.md R240) no step changes CFG; a
change is refused as CFG_CHANGED, an ill-formed configuration as CFG_ILL_FORMED, and a launch with one has no step of the
decoder, the consumer or the edge source. Before the first reset and after the end of a run (R234) a well-formed CFG is taken.
Every reset opens such a window (ResetResult, ResetStateValues), and no step shuts it but by the end of the run. The model's
choices: where both refusals apply in the window, an ill-formed change is CFG_ILL_FORMED, and a well-formed change of an
ill-formed CFG is CFG_CHANGED (assumption 11); the host's RESET, and its setting of CFG outside the window, run in an
ill-formed launch (assumption 12). -/
def Obligations.ConfigurationIsConstantInARun : Prop :=
  (∀ s t : State, s.running = true → step s = .next t → t.running = true ∧ (runOver s = false → t.cfg = s.cfg)) ∧
  (∀ (s : State) (c : Thresholds) (rest : List Turn), s.turns = .cfg c :: rest →
    (c.wf = false → step s = .refused .cfgIllFormed) ∧
    (c.wf = true → s.running = true → runOver s = false → c ≠ s.cfg → step s = .refused .cfgChanged) ∧
    (c.wf = true → s.running = false ∨ runOver s = true → step s = .next { s with turns := rest, cfg := c })) ∧
  (∀ s : State, s.cfg.wf = false → (∀ c rest, s.turns ≠ .cfg c :: rest) → (∀ rest, s.turns ≠ .reset :: rest) →
    step s = .refused .cfgIllFormed)

/-- 60_exceptions.md R207: with FAULTS non-empty no event is ever accepted, no step but a reset removes a fault, the run is not
over; with no other agent left the machine stops with the fault on an offered event (assumption 10). -/
def Obligations.FaultStopsTheDecoder : Prop :=
  (∀ s t : State, s.faults ≠ [] → step s = .next t →
    (∀ rest, s.turns ≠ .reset :: rest) → t.faults = s.faults ∧ s.events <+: t.events ∧ t.history = s.history) ∧
  (∀ s : State, s.faults ≠ [] → runOver s = false) ∧
  (∀ s : State, s.faults ≠ [] → s.cfg.wf = true → s.turns = [] → s.events ≠ [] → step s = .fault .reservedState)

/-- 70_reset_and_hazards.md R230, 10_state.md R38: what RESET sets (PREV_TS gets a draw, any value), and that it does not change CFG.
The model's choices: the event history, the frames popped, the step's values, the FI's ports and the turns stay
(assumption 14), and so does an offered event (assumption 20); `running` and `draws` are the model's own. -/
def Obligations.ResetResult : Prop :=
  ∀ s : State, ∃ t, exec .reset s = .next t ∧
    t = { s with
          psm := .idle, bitCount := 0, waitCount := false, prevTs := t.prevTs, frame := 0, outFifo := [], faults := [],
          running := true, draws := s.draws + 1 }

/-- 10_state.md R38: the values right after reset for every launch's inputs; State.reset is one of them (its CFG, FIFO_DEPTH,
HAS_DEBUG and PREV_TS are the model's choices, assumptions 1, 3, 4, 5). -/
def Obligations.ResetStateValues : Prop :=
  (∀ (c : Thresholds) (p : Params) (v : Ts),
    (State.launch c p v).psm = .idle ∧ (State.launch c p v).bitCount = 0 ∧
    (State.launch c p v).waitCount = false ∧ (State.launch c p v).prevTs = v ∧
    (∀ i, readSlot (State.launch c p v).frame i = false) ∧ (State.launch c p v).outFifo = [] ∧
    (State.launch c p v).faults = [] ∧ (State.launch c p v).cfg = c) ∧
  ∃ c p v, c.wf = true ∧ p.wf = true ∧ State.reset = State.launch c p v

/-! ## The frame interpreter -/

/-- 42_frame_interpreter.md R160: NIBBLE_PACK's result: 26 nibbles, the lowest slot of each four most significant. -/
def Obligations.NibblePackResult : Prop :=
  ∀ (f : Frame) (s : State), ∃ ns : List Nib,
    exec (.nibblePack f) s = .next { s with fi := { s.fi with frame := f, nib := ns } } ∧ ns.length = 26 ∧
    ∀ n, n < 26 → ∃ v, ns[n]? = some v ∧
      v.toNat = (f.getLsbD (4 * n)).toNat * 8 + (f.getLsbD (4 * n + 1)).toNat * 4 +
        (f.getLsbD (4 * n + 2)).toNat * 2 + (f.getLsbD (4 * n + 3)).toNat

/-- 42_frame_interpreter.md R161: packing is a bijection between frames and sequences of 26 nibbles, and nibble n holds exactly
slots 4n..4n+3. -/
def Obligations.NibblePackIsABijection : Prop :=
  (∀ f : Frame, frameOfNibbles (nibbles f) = f) ∧
  (∀ ns : List Nib, ns.length = 26 → nibbles (frameOfNibbles ns) = ns) ∧
  (∀ (f : Frame) (n j : Nat), n < 26 → j < 4 → (nibble f n).getLsbD (3 - j) = f.getLsbD (4 * n + j))

/-- 42_frame_interpreter.md R162 to R167: the digit map's operations: each valid nibble's digit, and digit 0 with the invalid bit
for every other; the operation a nibble selects drives what DIGIT_MAP gives for it. -/
def Obligations.DigitOperationResults : Prop :=
  (∀ s : State,
    exec .digit0 s = .next { s with fi := { s.fi with digit := 0, invalid := false } } ∧
    exec .digit1 s = .next { s with fi := { s.fi with digit := 1, invalid := false } } ∧
    exec .digit2 s = .next { s with fi := { s.fi with digit := 2, invalid := false } } ∧
    exec .digit3 s = .next { s with fi := { s.fi with digit := 3, invalid := false } } ∧
    ∀ v, exec (.digitInvalid v) s = .next { s with fi := { s.fi with digit := 0, invalid := true } }) ∧
  decodeNib 5 = .digit0 ∧ decodeNib 6 = .digit1 ∧ decodeNib 9 = .digit2 ∧ decodeNib 10 = .digit3 ∧
  (∀ v : Nib, v ≠ 5 → v ≠ 6 → v ≠ 9 → v ≠ 10 → decodeNib v = .digitInvalid v) ∧
  (∀ (v : Nib) (s : State), exec (decodeNib v) s =
    .next { s with fi := { s.fi with digit := (digitMap v).1, invalid := (digitMap v).2 } })

/-- 42_frame_interpreter.md R168 to R170: TEMP_DECODE of the frame at the FI's input, for both probes: the word is the two's
complement of the exact weighted sum of the window's digits less 532, the error bit says that a nibble of the window is
invalid. -/
def Obligations.TempDecodeResults : Prop :=
  ∀ s : State,
    (∃ (w : Temp) (e : Bool),
      exec .tempDecodeP1 s = .next { s with fi := { s.fi with temp1 := w, temp1Err := e } } ∧
      w.toInt = ((digitMap (nibble s.fi.frame 8)).1.toNat : Int) * 256 + (digitMap (nibble s.fi.frame 9)).1.toNat * 64 +
        (digitMap (nibble s.fi.frame 10)).1.toNat * 16 + (digitMap (nibble s.fi.frame 11)).1.toNat * 4 +
        (digitMap (nibble s.fi.frame 12)).1.toNat - 532 ∧
      (e = true ↔ ∃ n, 8 ≤ n ∧ n ≤ 12 ∧ (digitMap (nibble s.fi.frame n)).2 = true)) ∧
    (∃ (w : Temp) (e : Bool),
      exec .tempDecodeP2 s = .next { s with fi := { s.fi with temp2 := w, temp2Err := e } } ∧
      w.toInt = ((digitMap (nibble s.fi.frame 13)).1.toNat : Int) * 256 +
        (digitMap (nibble s.fi.frame 14)).1.toNat * 64 + (digitMap (nibble s.fi.frame 15)).1.toNat * 16 +
        (digitMap (nibble s.fi.frame 16)).1.toNat * 4 + (digitMap (nibble s.fi.frame 17)).1.toNat - 532 ∧
      (e = true ↔ ∃ n, 13 ≤ n ∧ n ≤ 17 ∧ (digitMap (nibble s.fi.frame n)).2 = true))

/-- 42_frame_interpreter.md R172: the FI's outputs for a frame are TEMP_DECODE of it with PSEL 0 and PSEL 1. -/
def Obligations.FiOutputsResult : Prop :=
  ∀ (f : Frame) (s : State), ∃ t p q,
    exec (.fiOutputs f) s = .next t ∧
    exec .tempDecodeP1 { s with fi := { s.fi with frame := f } } = .next p ∧
    exec .tempDecodeP2 { s with fi := { s.fi with frame := f } } = .next q ∧
    t = { s with fi := { s.fi with
          frame := f, nib := nibbles f, temp1 := p.fi.temp1, temp1Err := p.fi.temp1Err,
          temp2 := q.fi.temp2, temp2Err := q.fi.temp2Err } }

/-- 42_frame_interpreter.md R172, R173: each probe's outputs depend only on its own 20 slots, and so the FI's outputs only on slots
32..71. -/
def Obligations.FiReadsOnlyItsWindows : Prop :=
  (∀ f g : Frame, (∀ i, 32 ≤ i → i ≤ 51 → f.getLsbD i = g.getLsbD i) →
    (readingsOf f).temp1 = (readingsOf g).temp1 ∧ (readingsOf f).temp1Err = (readingsOf g).temp1Err) ∧
  (∀ f g : Frame, (∀ i, 52 ≤ i → i ≤ 71 → f.getLsbD i = g.getLsbD i) →
    (readingsOf f).temp2 = (readingsOf g).temp2 ∧ (readingsOf f).temp2Err = (readingsOf g).temp2Err) ∧
  (∀ f g : Frame, (∀ i, 32 ≤ i → i ≤ 71 → f.getLsbD i = g.getLsbD i) → readingsOf f = readingsOf g)

/-- 42_frame_interpreter.md R171: a reading lies in −532..491; every value of the range is some frame's valid reading, and a reading
determines its five digits. -/
def Obligations.ReadingRange : Prop :=
  ∀ off, off = 8 ∨ off = 13 →
    (∀ f : Frame, -532 ≤ reading f off ∧ reading f off ≤ 491) ∧
    (∀ v : Int, -532 ≤ v → v ≤ 491 → ∃ f : Frame, reading f off = v ∧ tempErr f off = false) ∧
    (∀ f g : Frame, reading f off = reading g off → ∀ k, k < 5 → digitAt f off k = digitAt g off k)

/-- The high bits of a reading's word: bits 15..11 equal bit 10. The remark of 30_encoding.md R78 that bits 15..10 equal bit 9 fails
on the readings −532..−513, and on them only (assumption 25). -/
def Obligations.ReadingWordHighBits : Prop :=
  ∀ (f : Frame) (off : Nat),
    (∀ i, 11 ≤ i → i ≤ 15 → (tempWord f off).getLsbD i = (tempWord f off).getLsbD 10) ∧
    ((tempWord f off).getLsbD 10 = (tempWord f off).getLsbD 9 ↔ -512 ≤ reading f off)

/-- 60_exceptions.md R203: a probe's error bit is set exactly when a nibble of its window is none of 5, 6, 9, 10. -/
def Obligations.DigitDecodeErrorPerProbe : Prop :=
  ∀ f : Frame,
    ((readingsOf f).temp1Err = true ↔ ∃ n, 8 ≤ n ∧ n ≤ 12 ∧
      nibble f n ≠ 5 ∧ nibble f n ≠ 6 ∧ nibble f n ≠ 9 ∧ nibble f n ≠ 10) ∧
    ((readingsOf f).temp2Err = true ↔ ∃ n, 13 ≤ n ∧ n ≤ 17 ∧
      nibble f n ≠ 5 ∧ nibble f n ≠ 6 ∧ nibble f n ≠ 9 ∧ nibble f n ≠ 10)

/-! ## Headline results -/

/-- 10_state.md R37: the invariants hold after reset, for every launch. -/
def Obligations.InvariantsHoldAtReset : Prop :=
  Invariants State.reset ∧ ∀ (c : Thresholds) (p : Params) (v : Ts), Invariants (State.launch c p v) ∧ queueBounded (State.launch c p v)

/-- 10_state.md R37: every step keeps the invariants (I-A to I-F as far as a state shows them, and no fault). -/
def Obligations.EveryStepKeepsTheInvariants : Prop :=
  ∀ s t : State, Invariants s → step s = .next t → Invariants t

/-- 10_state.md R36 (b), R37 I-D and I-F, 41_state_machine.md R141: slots not written since the last entry to Preamble never matter:
two states that differ only there take steps to states that again differ only there, with the same queue, history and every
other field. -/
def Obligations.StaleSlotsNeverReachAnOutput : Prop :=
  ∀ s t s' : State, Invariants s → sameButStale s t → step s = .next s' → ∃ t', step t = .next t' ∧ sameButStale s' t'

/-- 41_state_machine.md R139, R140: from Idle, with room in the queue and nobody else moving, the event sequence of R139 for any
pattern b[1..103] delivers exactly the frame 0, b[1], …, b[103], one event a step, in 104 to 206 events. -/
def Obligations.EveryPatternIsDelivered : Prop :=
  ∀ (s : State) (f : Frame), s.psm = .idle → s.faults = [] → s.cfg.wf = true → s.turns = [] → fifoFull s = false →
    f.getLsbD 0 = false → s.events = frameEvents s.cfg s.prevTs f →
    104 ≤ s.events.length ∧ s.events.length ≤ 206 ∧
    ∃ t, Host.Core.run Sys2Proof.core s.events.length s = .next t ∧ t.outFifo = s.outFifo ++ [f] ∧ t.psm = .idle ∧
      t.events = [] ∧ t.bitCount = 0 ∧ t.frame = 0 ∧ t.history.length = s.history.length + s.events.length

/-! ## The edge source, the end of a run, the end of a hold -/

/-- 00_scope.md R14, 20_memory.md R59 (a): the edge source's turn adds its event behind those it has to offer, and nothing else
changes (the environment as plain data is the model's choice, assumption 6). -/
def Obligations.EdgeSourceAddsItsEvent : Prop :=
  ∀ (s : State) (w : EvWord) (rest : List Turn), s.turns = .offer w :: rest → s.cfg.wf = true →
    step s = .next { s with turns := rest, events := s.events ++ [w] }

/-- 70_reset_and_hazards.md R240, 10_state.md R32: a run that is over stays over until the next reset: no event is accepted, no
register of the decoder changes, and the observation stays. So a configuration set then takes effect only through that reset
(the model's reading, assumption 11). -/
def Obligations.EndedRunStaysEnded : Prop :=
  ∀ s t : State, runOver s = true → step s = .next t → s.turns.head? ≠ some .reset →
    runOver t = true ∧ sameDecoder s t ∧ t.outFifo = [] ∧ observe t = observe s

/-- 41_state_machine.md R137, 70_reset_and_hazards.md R240: from a queue within its capacity, a hold that is no hang ends: some
number of steps leads to a state with nothing held. -/
def Obligations.HoldEndsUnlessHung : Prop :=
  ∀ s : State, queueBounded s → s.params.wf = true → s.cfg.wf = true → s.faults = [] → isHeld s = true → hung s = false →
    (∀ c, Turn.cfg c ∈ s.turns → c = s.cfg) →
    ∃ n t, Host.Core.run Sys2Proof.core n s = .next t ∧ isHeld t = false
end

