-- ==== Sys2Proof/Laws/Decode.lean ====
section
/-! SUPPORT. What the operation map selects in each state, by the class and the edge; the words of events; the classes
of intervals. -/

namespace Sys2Proof

/-! Words and fields. -/

theorem Evw.ofWord_word (e : Evw) : Evw.ofWord e.word = e := by
  obtain ⟨l, ts⟩ := e
  simp only [Evw.ofWord, Evw.word, Evw.mk.injEq]
  constructor
  · rw [BitVec.getLsbD_append]; cases l <;> rfl
  · apply BitVec.eq_of_getLsbD_eq
    intro i hi
    rw [BitVec.getLsbD_extractLsb', Nat.zero_add, BitVec.getLsbD_append]
    simp [hi]

theorem Evw.word_ofWord (w : EvWord) : (Evw.ofWord w).word = w := by
  apply BitVec.eq_of_getLsbD_eq
  intro i hi
  simp only [Evw.ofWord, Evw.word, BitVec.getLsbD_append]
  by_cases h : i < 32
  · simp [h]
  · have : i = 32 := by omega
    subst this
    cases hb : w.getLsbD 32 <;> simp

theorem Psm.ofCode_code (p : Psm) : Psm.ofCode p.code = p := by cases p <;> rfl

theorem Psm.code_ofCode (c : BitVec 2) : (Psm.ofCode c).code = c := by
  revert c; decide

theorem edwSt_pack (st : BitVec 2) (cls : BitVec 3) (e w : Bool) : edwSt (edwPack st cls e w) = st := by
  revert st cls e w; decide

theorem edwCls_pack (st : BitVec 2) (cls : BitVec 3) (e w : Bool) : edwCls (edwPack st cls e w) = cls := by
  revert st cls e w; decide

theorem edwEdge_pack (st : BitVec 2) (cls : BitVec 3) (e w : Bool) : edwEdge (edwPack st cls e w) = e := by
  revert st cls e w; decide

theorem edwWait_pack (st : BitVec 2) (cls : BitVec 3) (e w : Bool) : edwWait (edwPack st cls e w) = w := by
  revert st cls e w; decide

theorem edwPack_fields (w : Edw) : edwPack (edwSt w) (edwCls w) (edwEdge w) (edwWait w) = w := by
  revert w; decide

/-! The operation map (30_encoding.md R75), state by state. -/

theorem decodeEdw_idle (cls : PulseClass) (e w : Bool) :
    decodeEdw (edwPack Psm.idle.code cls.code e w) =
      if cls = .twentyClock ∧ e = false then .idleSync w else .idleStay cls.code e w := by
  cases cls <;> cases e <;> cases w <;> rfl

theorem decodeEdw_preamble (cls : PulseClass) (e w : Bool) :
    decodeEdw (edwPack Psm.preamble.code cls.code e w) =
      if cls = .twoClock then .preFirstPair e w
      else if cls = .oneClock ∧ e = true then .preHalf w
      else if cls = .twentyClock ∧ e = false then .preResync w
      else .preError cls.code e w := by
  cases cls <;> cases e <;> cases w <;> rfl

theorem decodeEdw_data (cls : PulseClass) (e w : Bool) :
    decodeEdw (edwPack Psm.data.code cls.code e w) =
      if cls = .oneClock then (if w then .dataRepeat e else .dataHalf e)
      else if cls = .twoClock then (if w then .dataPairError e else .dataToggle e)
      else .dataClassError cls.code e w := by
  cases cls <;> cases e <;> cases w <;> rfl

theorem decodeEdw_reserved (cls : PulseClass) (e w : Bool) :
    decodeEdw (edwPack Psm.reserved.code cls.code e w) = .reservedState cls.code e w := by
  cases cls <;> cases e <;> cases w <;> rfl

/-- A decode word's operation is one of the PSM's, and its word is that decode word. -/
theorem encode_decodeEdw (w : Edw) : encode (decodeEdw w) = .psm w := by
  revert w; decide

/-- The decoder's operations are well-formed instances of their rows. -/
theorem decodeEdw_wf (w : Edw) : (decodeEdw w).wf = true := by
  revert w; decide

namespace Machine

/-! The class of an interval (40_classifier.md R102), in plain numbers. -/

theorem classOf_short (c : Thresholds) (dt : Ts) (h : dt.toNat < c.oneMin.toNat) : classOf c dt = .short := by
  simp [classOf, BitVec.lt_def, h]

theorem classOf_oneClock (c : Thresholds) (dt : Ts) (h1 : c.oneMin.toNat ≤ dt.toNat) (h2 : dt.toNat ≤ c.oneMax.toNat) :
    classOf c dt = .oneClock := by
  simp [classOf, BitVec.lt_def, BitVec.le_def, Nat.not_lt.mpr h1, h2]

theorem classOf_twoClock (c : Thresholds) (dt : Ts) (h0 : c.oneMin.toNat ≤ dt.toNat) (h1 : c.oneMax.toNat < dt.toNat)
    (h2 : dt.toNat ≤ c.twoMax.toNat) : classOf c dt = .twoClock := by
  simp [classOf, BitVec.lt_def, BitVec.le_def, Nat.not_lt.mpr h0, Nat.not_le.mpr h1, h2]

theorem classOf_above (c : Thresholds) (dt : Ts) (h0 : c.oneMin.toNat ≤ dt.toNat) (h1 : c.oneMax.toNat < dt.toNat)
    (h2 : c.twoMax.toNat < dt.toNat) :
    classOf c dt = if c.twentyMin.toNat ≤ dt.toNat ∧ dt.toNat ≤ c.twentyMax.toNat then .twentyClock else .long := by
  simp [classOf, BitVec.lt_def, BitVec.le_def, Nat.not_lt.mpr h0, Nat.not_le.mpr h1, Nat.not_le.mpr h2]

/-- The order of the thresholds of a well-formed configuration (10_state.md R31). -/
theorem wf_order (c : Thresholds) (h : c.wf = true) :
    1 ≤ c.oneMin.toNat ∧ c.oneMin.toNat ≤ c.oneMax.toNat ∧ c.oneMax.toNat < c.twoMax.toNat ∧
      c.twoMax.toNat < c.twentyMin.toNat ∧ c.twentyMin.toNat ≤ c.twentyMax.toNat ∧
      c.twentyMax.toNat < 2 ^ 32 - 1 := by
  simpa [Thresholds.wf, and_assoc] using h

/-! What is selected for an event (41_state_machine.md R121). -/

/-- The class an event's interval has. -/
theorem selected_eq (ev : Evw) (s : State) :
    selected ev s =
      decodeEdw (edwPack s.psm.code (classOf s.cfg (ev.ts - s.prevTs)).code (!ev.level) s.waitCount) := rfl

end Machine
end Sys2Proof
end

