-- ==== Sys2Proof/Laws/State.lean ====
section
/-! SUPPORT. One lemma per field per update of State, true by rfl, so that no later proof unfolds a record update. -/

namespace Sys2Proof.Machine

/-! `setWait`. -/
@[simp] theorem setWait_psm (b : Bool) (s : State) : (setWait b s).psm = s.psm := rfl
@[simp] theorem setWait_bitCount (b : Bool) (s : State) : (setWait b s).bitCount = s.bitCount := rfl
@[simp] theorem setWait_waitCount (b : Bool) (s : State) : (setWait b s).waitCount = b := rfl
@[simp] theorem setWait_prevTs (b : Bool) (s : State) : (setWait b s).prevTs = s.prevTs := rfl
@[simp] theorem setWait_frame (b : Bool) (s : State) : (setWait b s).frame = s.frame := rfl
@[simp] theorem setWait_cfg (b : Bool) (s : State) : (setWait b s).cfg = s.cfg := rfl
@[simp] theorem setWait_outFifo (b : Bool) (s : State) : (setWait b s).outFifo = s.outFifo := rfl
@[simp] theorem setWait_faults (b : Bool) (s : State) : (setWait b s).faults = s.faults := rfl
@[simp] theorem setWait_params (b : Bool) (s : State) : (setWait b s).params = s.params := rfl
@[simp] theorem setWait_wires (b : Bool) (s : State) : (setWait b s).wires = s.wires := rfl
@[simp] theorem setWait_fi (b : Bool) (s : State) : (setWait b s).fi = s.fi := rfl
@[simp] theorem setWait_history (b : Bool) (s : State) : (setWait b s).history = s.history := rfl
@[simp] theorem setWait_popped (b : Bool) (s : State) : (setWait b s).popped = s.popped := rfl
@[simp] theorem setWait_events (b : Bool) (s : State) : (setWait b s).events = s.events := rfl
@[simp] theorem setWait_turns (b : Bool) (s : State) : (setWait b s).turns = s.turns := rfl
@[simp] theorem setWait_running (b : Bool) (s : State) : (setWait b s).running = s.running := rfl
@[simp] theorem setWait_draws (b : Bool) (s : State) : (setWait b s).draws = s.draws := rfl

/-! `report`. -/
@[simp] theorem report_psm (c : EvStatus) (s : State) : (report c s).psm = s.psm := rfl
@[simp] theorem report_bitCount (c : EvStatus) (s : State) : (report c s).bitCount = s.bitCount := rfl
@[simp] theorem report_waitCount (c : EvStatus) (s : State) : (report c s).waitCount = s.waitCount := rfl
@[simp] theorem report_prevTs (c : EvStatus) (s : State) : (report c s).prevTs = s.prevTs := rfl
@[simp] theorem report_frame (c : EvStatus) (s : State) : (report c s).frame = s.frame := rfl
@[simp] theorem report_cfg (c : EvStatus) (s : State) : (report c s).cfg = s.cfg := rfl
@[simp] theorem report_outFifo (c : EvStatus) (s : State) : (report c s).outFifo = s.outFifo := rfl
@[simp] theorem report_faults (c : EvStatus) (s : State) : (report c s).faults = s.faults := rfl
@[simp] theorem report_params (c : EvStatus) (s : State) : (report c s).params = s.params := rfl
@[simp] theorem report_wires (c : EvStatus) (s : State) :
    (report c s).wires = { s.wires with status := c, dbgDerr := s.params.hasDebug && c == .dataError } := rfl
@[simp] theorem report_fi (c : EvStatus) (s : State) : (report c s).fi = s.fi := rfl
@[simp] theorem report_history (c : EvStatus) (s : State) : (report c s).history = s.history := rfl
@[simp] theorem report_popped (c : EvStatus) (s : State) : (report c s).popped = s.popped := rfl
@[simp] theorem report_events (c : EvStatus) (s : State) : (report c s).events = s.events := rfl
@[simp] theorem report_turns (c : EvStatus) (s : State) : (report c s).turns = s.turns := rfl
@[simp] theorem report_running (c : EvStatus) (s : State) : (report c s).running = s.running := rfl
@[simp] theorem report_draws (c : EvStatus) (s : State) : (report c s).draws = s.draws := rfl

/-! `enterStep`. -/
@[simp] theorem enterStep_psm (s : State) : (enterStep s).psm = s.psm := rfl
@[simp] theorem enterStep_bitCount (s : State) : (enterStep s).bitCount = s.bitCount := rfl
@[simp] theorem enterStep_waitCount (s : State) : (enterStep s).waitCount = s.waitCount := rfl
@[simp] theorem enterStep_prevTs (s : State) : (enterStep s).prevTs = s.prevTs := rfl
@[simp] theorem enterStep_frame (s : State) : (enterStep s).frame = s.frame := rfl
@[simp] theorem enterStep_cfg (s : State) : (enterStep s).cfg = s.cfg := rfl
@[simp] theorem enterStep_outFifo (s : State) : (enterStep s).outFifo = s.outFifo := rfl
@[simp] theorem enterStep_faults (s : State) : (enterStep s).faults = s.faults := rfl
@[simp] theorem enterStep_params (s : State) : (enterStep s).params = s.params := rfl
@[simp] theorem enterStep_wires (s : State) :
    (enterStep s).wires = { s.wires with status := .none, dbgSync := s.params.hasDebug, dbgDerr := false } := rfl
@[simp] theorem enterStep_fi (s : State) : (enterStep s).fi = s.fi := rfl
@[simp] theorem enterStep_history (s : State) : (enterStep s).history = s.history := rfl
@[simp] theorem enterStep_popped (s : State) : (enterStep s).popped = s.popped := rfl
@[simp] theorem enterStep_events (s : State) : (enterStep s).events = s.events := rfl
@[simp] theorem enterStep_turns (s : State) : (enterStep s).turns = s.turns := rfl
@[simp] theorem enterStep_running (s : State) : (enterStep s).running = s.running := rfl
@[simp] theorem enterStep_draws (s : State) : (enterStep s).draws = s.draws := rfl

/-! `exitStep`. -/
@[simp] theorem exitStep_psm (s : State) : (exitStep s).psm = s.psm := rfl
@[simp] theorem exitStep_bitCount (s : State) : (exitStep s).bitCount = s.bitCount := rfl
@[simp] theorem exitStep_waitCount (s : State) : (exitStep s).waitCount = s.waitCount := rfl
@[simp] theorem exitStep_prevTs (s : State) : (exitStep s).prevTs = s.prevTs := rfl
@[simp] theorem exitStep_frame (s : State) : (exitStep s).frame = s.frame := rfl
@[simp] theorem exitStep_cfg (s : State) : (exitStep s).cfg = s.cfg := rfl
@[simp] theorem exitStep_outFifo (s : State) : (exitStep s).outFifo = s.outFifo := rfl
@[simp] theorem exitStep_faults (s : State) : (exitStep s).faults = s.faults := rfl
@[simp] theorem exitStep_params (s : State) : (exitStep s).params = s.params := rfl
@[simp] theorem exitStep_wires (s : State) :
    (exitStep s).wires = { s.wires with dbgSync := false, dbgDerr := false } := rfl
@[simp] theorem exitStep_fi (s : State) : (exitStep s).fi = s.fi := rfl
@[simp] theorem exitStep_history (s : State) : (exitStep s).history = s.history := rfl
@[simp] theorem exitStep_popped (s : State) : (exitStep s).popped = s.popped := rfl
@[simp] theorem exitStep_events (s : State) : (exitStep s).events = s.events := rfl
@[simp] theorem exitStep_turns (s : State) : (exitStep s).turns = s.turns := rfl
@[simp] theorem exitStep_running (s : State) : (exitStep s).running = s.running := rfl
@[simp] theorem exitStep_draws (s : State) : (exitStep s).draws = s.draws := rfl

/-! `pushFrame`. -/
@[simp] theorem pushFrame_psm (f : Frame) (s : State) : (pushFrame f s).psm = s.psm := rfl
@[simp] theorem pushFrame_bitCount (f : Frame) (s : State) : (pushFrame f s).bitCount = s.bitCount := rfl
@[simp] theorem pushFrame_waitCount (f : Frame) (s : State) : (pushFrame f s).waitCount = s.waitCount := rfl
@[simp] theorem pushFrame_prevTs (f : Frame) (s : State) : (pushFrame f s).prevTs = s.prevTs := rfl
@[simp] theorem pushFrame_frame (f : Frame) (s : State) : (pushFrame f s).frame = s.frame := rfl
@[simp] theorem pushFrame_cfg (f : Frame) (s : State) : (pushFrame f s).cfg = s.cfg := rfl
@[simp] theorem pushFrame_outFifo (f : Frame) (s : State) : (pushFrame f s).outFifo = s.outFifo ++ [f] := rfl
@[simp] theorem pushFrame_faults (f : Frame) (s : State) : (pushFrame f s).faults = s.faults := rfl
@[simp] theorem pushFrame_params (f : Frame) (s : State) : (pushFrame f s).params = s.params := rfl
@[simp] theorem pushFrame_wires (f : Frame) (s : State) : (pushFrame f s).wires = s.wires := rfl
@[simp] theorem pushFrame_fi (f : Frame) (s : State) : (pushFrame f s).fi = s.fi := rfl
@[simp] theorem pushFrame_history (f : Frame) (s : State) : (pushFrame f s).history = s.history := rfl
@[simp] theorem pushFrame_popped (f : Frame) (s : State) : (pushFrame f s).popped = s.popped := rfl
@[simp] theorem pushFrame_events (f : Frame) (s : State) : (pushFrame f s).events = s.events := rfl
@[simp] theorem pushFrame_turns (f : Frame) (s : State) : (pushFrame f s).turns = s.turns := rfl
@[simp] theorem pushFrame_running (f : Frame) (s : State) : (pushFrame f s).running = s.running := rfl
@[simp] theorem pushFrame_draws (f : Frame) (s : State) : (pushFrame f s).draws = s.draws := rfl

/-! `takeError`. -/
@[simp] theorem takeError_psm (c : EvStatus) (s : State) : (takeError c s).psm = .idle := rfl
@[simp] theorem takeError_bitCount (c : EvStatus) (s : State) : (takeError c s).bitCount = s.bitCount := rfl
@[simp] theorem takeError_waitCount (c : EvStatus) (s : State) : (takeError c s).waitCount = s.waitCount := rfl
@[simp] theorem takeError_prevTs (c : EvStatus) (s : State) : (takeError c s).prevTs = s.prevTs := rfl
@[simp] theorem takeError_frame (c : EvStatus) (s : State) : (takeError c s).frame = s.frame := rfl
@[simp] theorem takeError_cfg (c : EvStatus) (s : State) : (takeError c s).cfg = s.cfg := rfl
@[simp] theorem takeError_outFifo (c : EvStatus) (s : State) : (takeError c s).outFifo = s.outFifo := rfl
@[simp] theorem takeError_faults (c : EvStatus) (s : State) : (takeError c s).faults = s.faults := rfl
@[simp] theorem takeError_params (c : EvStatus) (s : State) : (takeError c s).params = s.params := rfl
@[simp] theorem takeError_wires (c : EvStatus) (s : State) :
    (takeError c s).wires = { s.wires with status := c, dbgDerr := s.params.hasDebug && c == .dataError } := rfl
@[simp] theorem takeError_fi (c : EvStatus) (s : State) : (takeError c s).fi = s.fi := rfl
@[simp] theorem takeError_history (c : EvStatus) (s : State) : (takeError c s).history = s.history := rfl
@[simp] theorem takeError_popped (c : EvStatus) (s : State) : (takeError c s).popped = s.popped := rfl
@[simp] theorem takeError_events (c : EvStatus) (s : State) : (takeError c s).events = s.events := rfl
@[simp] theorem takeError_turns (c : EvStatus) (s : State) : (takeError c s).turns = s.turns := rfl
@[simp] theorem takeError_running (c : EvStatus) (s : State) : (takeError c s).running = s.running := rfl
@[simp] theorem takeError_draws (c : EvStatus) (s : State) : (takeError c s).draws = s.draws := rfl

/-! `raiseFault`. -/
@[simp] theorem raiseFault_psm (f : ModelFault) (s : State) : (raiseFault f s).psm = s.psm := rfl
@[simp] theorem raiseFault_bitCount (f : ModelFault) (s : State) : (raiseFault f s).bitCount = s.bitCount := rfl
@[simp] theorem raiseFault_waitCount (f : ModelFault) (s : State) : (raiseFault f s).waitCount = s.waitCount := rfl
@[simp] theorem raiseFault_prevTs (f : ModelFault) (s : State) : (raiseFault f s).prevTs = s.prevTs := rfl
@[simp] theorem raiseFault_frame (f : ModelFault) (s : State) : (raiseFault f s).frame = s.frame := rfl
@[simp] theorem raiseFault_cfg (f : ModelFault) (s : State) : (raiseFault f s).cfg = s.cfg := rfl
@[simp] theorem raiseFault_outFifo (f : ModelFault) (s : State) : (raiseFault f s).outFifo = s.outFifo := rfl
@[simp] theorem raiseFault_faults (f : ModelFault) (s : State) :
    (raiseFault f s).faults = if s.faults.contains f then s.faults else s.faults ++ [f] := rfl
@[simp] theorem raiseFault_params (f : ModelFault) (s : State) : (raiseFault f s).params = s.params := rfl
@[simp] theorem raiseFault_wires (f : ModelFault) (s : State) : (raiseFault f s).wires = s.wires := rfl
@[simp] theorem raiseFault_fi (f : ModelFault) (s : State) : (raiseFault f s).fi = s.fi := rfl
@[simp] theorem raiseFault_history (f : ModelFault) (s : State) : (raiseFault f s).history = s.history := rfl
@[simp] theorem raiseFault_popped (f : ModelFault) (s : State) : (raiseFault f s).popped = s.popped := rfl
@[simp] theorem raiseFault_events (f : ModelFault) (s : State) : (raiseFault f s).events = s.events := rfl
@[simp] theorem raiseFault_turns (f : ModelFault) (s : State) : (raiseFault f s).turns = s.turns := rfl
@[simp] theorem raiseFault_running (f : ModelFault) (s : State) : (raiseFault f s).running = s.running := rfl
@[simp] theorem raiseFault_draws (f : ModelFault) (s : State) : (raiseFault f s).draws = s.draws := rfl

/-! `resetCore`. -/
@[simp] theorem resetCore_psm (s : State) : (resetCore s).psm = .idle := rfl
@[simp] theorem resetCore_bitCount (s : State) : (resetCore s).bitCount = 0 := rfl
@[simp] theorem resetCore_waitCount (s : State) : (resetCore s).waitCount = false := rfl
@[simp] theorem resetCore_prevTs (s : State) : (resetCore s).prevTs = Config.prevTsReset s.draws := rfl
@[simp] theorem resetCore_frame (s : State) : (resetCore s).frame = 0 := rfl
@[simp] theorem resetCore_cfg (s : State) : (resetCore s).cfg = s.cfg := rfl
@[simp] theorem resetCore_outFifo (s : State) : (resetCore s).outFifo = [] := rfl
@[simp] theorem resetCore_faults (s : State) : (resetCore s).faults = [] := rfl
@[simp] theorem resetCore_params (s : State) : (resetCore s).params = s.params := rfl
@[simp] theorem resetCore_wires (s : State) : (resetCore s).wires = s.wires := rfl
@[simp] theorem resetCore_fi (s : State) : (resetCore s).fi = s.fi := rfl
@[simp] theorem resetCore_history (s : State) : (resetCore s).history = s.history := rfl
@[simp] theorem resetCore_popped (s : State) : (resetCore s).popped = s.popped := rfl
@[simp] theorem resetCore_events (s : State) : (resetCore s).events = s.events := rfl
@[simp] theorem resetCore_turns (s : State) : (resetCore s).turns = s.turns := rfl
@[simp] theorem resetCore_running (s : State) : (resetCore s).running = true := rfl
@[simp] theorem resetCore_draws (s : State) : (resetCore s).draws = s.draws + 1 := rfl

/-! `assembleEdw`. -/
@[simp] theorem assembleEdw_psm (s : State) : (assembleEdw s).psm = s.psm := rfl
@[simp] theorem assembleEdw_bitCount (s : State) : (assembleEdw s).bitCount = s.bitCount := rfl
@[simp] theorem assembleEdw_waitCount (s : State) : (assembleEdw s).waitCount = s.waitCount := rfl
@[simp] theorem assembleEdw_prevTs (s : State) : (assembleEdw s).prevTs = s.prevTs := rfl
@[simp] theorem assembleEdw_frame (s : State) : (assembleEdw s).frame = s.frame := rfl
@[simp] theorem assembleEdw_cfg (s : State) : (assembleEdw s).cfg = s.cfg := rfl
@[simp] theorem assembleEdw_outFifo (s : State) : (assembleEdw s).outFifo = s.outFifo := rfl
@[simp] theorem assembleEdw_faults (s : State) : (assembleEdw s).faults = s.faults := rfl
@[simp] theorem assembleEdw_params (s : State) : (assembleEdw s).params = s.params := rfl
@[simp] theorem assembleEdw_wires (s : State) :
    (assembleEdw s).wires = { s.wires with edw := edwWith s s.wires.cls s.wires.edge } := rfl
@[simp] theorem assembleEdw_fi (s : State) : (assembleEdw s).fi = s.fi := rfl
@[simp] theorem assembleEdw_history (s : State) : (assembleEdw s).history = s.history := rfl
@[simp] theorem assembleEdw_popped (s : State) : (assembleEdw s).popped = s.popped := rfl
@[simp] theorem assembleEdw_events (s : State) : (assembleEdw s).events = s.events := rfl
@[simp] theorem assembleEdw_turns (s : State) : (assembleEdw s).turns = s.turns := rfl
@[simp] theorem assembleEdw_running (s : State) : (assembleEdw s).running = s.running := rfl
@[simp] theorem assembleEdw_draws (s : State) : (assembleEdw s).draws = s.draws := rfl

/-! `leaveStep`. -/
@[simp] theorem leaveStep_psm (ev : Evw) (op : Instr) (s : State) : (leaveStep ev op s).psm = s.psm := rfl
@[simp] theorem leaveStep_bitCount (ev : Evw) (op : Instr) (s : State) :
    (leaveStep ev op s).bitCount = s.bitCount := rfl
@[simp] theorem leaveStep_waitCount (ev : Evw) (op : Instr) (s : State) :
    (leaveStep ev op s).waitCount = s.waitCount := rfl
@[simp] theorem leaveStep_prevTs (ev : Evw) (op : Instr) (s : State) : (leaveStep ev op s).prevTs = s.prevTs := rfl
@[simp] theorem leaveStep_frame (ev : Evw) (op : Instr) (s : State) : (leaveStep ev op s).frame = s.frame := rfl
@[simp] theorem leaveStep_cfg (ev : Evw) (op : Instr) (s : State) : (leaveStep ev op s).cfg = s.cfg := rfl
@[simp] theorem leaveStep_outFifo (ev : Evw) (op : Instr) (s : State) : (leaveStep ev op s).outFifo = s.outFifo := rfl
@[simp] theorem leaveStep_faults (ev : Evw) (op : Instr) (s : State) : (leaveStep ev op s).faults = s.faults := rfl
@[simp] theorem leaveStep_params (ev : Evw) (op : Instr) (s : State) : (leaveStep ev op s).params = s.params := rfl
@[simp] theorem leaveStep_wires (ev : Evw) (op : Instr) (s : State) :
    (leaveStep ev op s).wires = { s.wires with dbgSync := false, dbgDerr := false } := rfl
@[simp] theorem leaveStep_fi (ev : Evw) (op : Instr) (s : State) : (leaveStep ev op s).fi = s.fi := rfl
@[simp] theorem leaveStep_history (ev : Evw) (op : Instr) (s : State) :
    (leaveStep ev op s).history = s.history ++ [entryOf ev op s] := rfl
@[simp] theorem leaveStep_popped (ev : Evw) (op : Instr) (s : State) : (leaveStep ev op s).popped = s.popped := rfl
@[simp] theorem leaveStep_events (ev : Evw) (op : Instr) (s : State) : (leaveStep ev op s).events = s.events := rfl
@[simp] theorem leaveStep_turns (ev : Evw) (op : Instr) (s : State) : (leaveStep ev op s).turns = s.turns := rfl
@[simp] theorem leaveStep_running (ev : Evw) (op : Instr) (s : State) : (leaveStep ev op s).running = true := rfl
@[simp] theorem leaveStep_draws (ev : Evw) (op : Instr) (s : State) : (leaveStep ev op s).draws = s.draws := rfl

/-! `driveDigit`. -/
@[simp] theorem driveDigit_psm (d : BitVec 2) (i : Bool) (s : State) : (driveDigit d i s).psm = s.psm := rfl
@[simp] theorem driveDigit_bitCount (d : BitVec 2) (i : Bool) (s : State) :
    (driveDigit d i s).bitCount = s.bitCount := rfl
@[simp] theorem driveDigit_waitCount (d : BitVec 2) (i : Bool) (s : State) :
    (driveDigit d i s).waitCount = s.waitCount := rfl
@[simp] theorem driveDigit_prevTs (d : BitVec 2) (i : Bool) (s : State) : (driveDigit d i s).prevTs = s.prevTs := rfl
@[simp] theorem driveDigit_frame (d : BitVec 2) (i : Bool) (s : State) : (driveDigit d i s).frame = s.frame := rfl
@[simp] theorem driveDigit_cfg (d : BitVec 2) (i : Bool) (s : State) : (driveDigit d i s).cfg = s.cfg := rfl
@[simp] theorem driveDigit_outFifo (d : BitVec 2) (i : Bool) (s : State) :
    (driveDigit d i s).outFifo = s.outFifo := rfl
@[simp] theorem driveDigit_faults (d : BitVec 2) (i : Bool) (s : State) : (driveDigit d i s).faults = s.faults := rfl
@[simp] theorem driveDigit_params (d : BitVec 2) (i : Bool) (s : State) : (driveDigit d i s).params = s.params := rfl
@[simp] theorem driveDigit_wires (d : BitVec 2) (i : Bool) (s : State) : (driveDigit d i s).wires = s.wires := rfl
@[simp] theorem driveDigit_fi (d : BitVec 2) (i : Bool) (s : State) :
    (driveDigit d i s).fi = { s.fi with digit := d, invalid := i } := rfl
@[simp] theorem driveDigit_history (d : BitVec 2) (i : Bool) (s : State) :
    (driveDigit d i s).history = s.history := rfl
@[simp] theorem driveDigit_popped (d : BitVec 2) (i : Bool) (s : State) : (driveDigit d i s).popped = s.popped := rfl
@[simp] theorem driveDigit_events (d : BitVec 2) (i : Bool) (s : State) : (driveDigit d i s).events = s.events := rfl
@[simp] theorem driveDigit_turns (d : BitVec 2) (i : Bool) (s : State) : (driveDigit d i s).turns = s.turns := rfl
@[simp] theorem driveDigit_running (d : BitVec 2) (i : Bool) (s : State) :
    (driveDigit d i s).running = s.running := rfl
@[simp] theorem driveDigit_draws (d : BitVec 2) (i : Bool) (s : State) : (driveDigit d i s).draws = s.draws := rfl

/-! `drivePacker`. -/
@[simp] theorem drivePacker_psm (f : Frame) (s : State) : (drivePacker f s).psm = s.psm := rfl
@[simp] theorem drivePacker_bitCount (f : Frame) (s : State) : (drivePacker f s).bitCount = s.bitCount := rfl
@[simp] theorem drivePacker_waitCount (f : Frame) (s : State) : (drivePacker f s).waitCount = s.waitCount := rfl
@[simp] theorem drivePacker_prevTs (f : Frame) (s : State) : (drivePacker f s).prevTs = s.prevTs := rfl
@[simp] theorem drivePacker_frame (f : Frame) (s : State) : (drivePacker f s).frame = s.frame := rfl
@[simp] theorem drivePacker_cfg (f : Frame) (s : State) : (drivePacker f s).cfg = s.cfg := rfl
@[simp] theorem drivePacker_outFifo (f : Frame) (s : State) : (drivePacker f s).outFifo = s.outFifo := rfl
@[simp] theorem drivePacker_faults (f : Frame) (s : State) : (drivePacker f s).faults = s.faults := rfl
@[simp] theorem drivePacker_params (f : Frame) (s : State) : (drivePacker f s).params = s.params := rfl
@[simp] theorem drivePacker_wires (f : Frame) (s : State) : (drivePacker f s).wires = s.wires := rfl
@[simp] theorem drivePacker_fi (f : Frame) (s : State) :
    (drivePacker f s).fi = { s.fi with frame := f, nib := nibbles f } := rfl
@[simp] theorem drivePacker_history (f : Frame) (s : State) : (drivePacker f s).history = s.history := rfl
@[simp] theorem drivePacker_popped (f : Frame) (s : State) : (drivePacker f s).popped = s.popped := rfl
@[simp] theorem drivePacker_events (f : Frame) (s : State) : (drivePacker f s).events = s.events := rfl
@[simp] theorem drivePacker_turns (f : Frame) (s : State) : (drivePacker f s).turns = s.turns := rfl
@[simp] theorem drivePacker_running (f : Frame) (s : State) : (drivePacker f s).running = s.running := rfl
@[simp] theorem drivePacker_draws (f : Frame) (s : State) : (drivePacker f s).draws = s.draws := rfl

/-! `driveTemp1`. -/
@[simp] theorem driveTemp1_psm (s : State) : (driveTemp1 s).psm = s.psm := rfl
@[simp] theorem driveTemp1_bitCount (s : State) : (driveTemp1 s).bitCount = s.bitCount := rfl
@[simp] theorem driveTemp1_waitCount (s : State) : (driveTemp1 s).waitCount = s.waitCount := rfl
@[simp] theorem driveTemp1_prevTs (s : State) : (driveTemp1 s).prevTs = s.prevTs := rfl
@[simp] theorem driveTemp1_frame (s : State) : (driveTemp1 s).frame = s.frame := rfl
@[simp] theorem driveTemp1_cfg (s : State) : (driveTemp1 s).cfg = s.cfg := rfl
@[simp] theorem driveTemp1_outFifo (s : State) : (driveTemp1 s).outFifo = s.outFifo := rfl
@[simp] theorem driveTemp1_faults (s : State) : (driveTemp1 s).faults = s.faults := rfl
@[simp] theorem driveTemp1_params (s : State) : (driveTemp1 s).params = s.params := rfl
@[simp] theorem driveTemp1_wires (s : State) : (driveTemp1 s).wires = s.wires := rfl
@[simp] theorem driveTemp1_fi (s : State) :
    (driveTemp1 s).fi = { s.fi with temp1 := tempWord s.fi.frame Config.p1Offset, temp1Err := tempErr s.fi.frame Config.p1Offset } := rfl
@[simp] theorem driveTemp1_history (s : State) : (driveTemp1 s).history = s.history := rfl
@[simp] theorem driveTemp1_popped (s : State) : (driveTemp1 s).popped = s.popped := rfl
@[simp] theorem driveTemp1_events (s : State) : (driveTemp1 s).events = s.events := rfl
@[simp] theorem driveTemp1_turns (s : State) : (driveTemp1 s).turns = s.turns := rfl
@[simp] theorem driveTemp1_running (s : State) : (driveTemp1 s).running = s.running := rfl
@[simp] theorem driveTemp1_draws (s : State) : (driveTemp1 s).draws = s.draws := rfl

/-! `driveTemp2`. -/
@[simp] theorem driveTemp2_psm (s : State) : (driveTemp2 s).psm = s.psm := rfl
@[simp] theorem driveTemp2_bitCount (s : State) : (driveTemp2 s).bitCount = s.bitCount := rfl
@[simp] theorem driveTemp2_waitCount (s : State) : (driveTemp2 s).waitCount = s.waitCount := rfl
@[simp] theorem driveTemp2_prevTs (s : State) : (driveTemp2 s).prevTs = s.prevTs := rfl
@[simp] theorem driveTemp2_frame (s : State) : (driveTemp2 s).frame = s.frame := rfl
@[simp] theorem driveTemp2_cfg (s : State) : (driveTemp2 s).cfg = s.cfg := rfl
@[simp] theorem driveTemp2_outFifo (s : State) : (driveTemp2 s).outFifo = s.outFifo := rfl
@[simp] theorem driveTemp2_faults (s : State) : (driveTemp2 s).faults = s.faults := rfl
@[simp] theorem driveTemp2_params (s : State) : (driveTemp2 s).params = s.params := rfl
@[simp] theorem driveTemp2_wires (s : State) : (driveTemp2 s).wires = s.wires := rfl
@[simp] theorem driveTemp2_fi (s : State) :
    (driveTemp2 s).fi = { s.fi with temp2 := tempWord s.fi.frame Config.p2Offset, temp2Err := tempErr s.fi.frame Config.p2Offset } := rfl
@[simp] theorem driveTemp2_history (s : State) : (driveTemp2 s).history = s.history := rfl
@[simp] theorem driveTemp2_popped (s : State) : (driveTemp2 s).popped = s.popped := rfl
@[simp] theorem driveTemp2_events (s : State) : (driveTemp2 s).events = s.events := rfl
@[simp] theorem driveTemp2_turns (s : State) : (driveTemp2 s).turns = s.turns := rfl
@[simp] theorem driveTemp2_running (s : State) : (driveTemp2 s).running = s.running := rfl
@[simp] theorem driveTemp2_draws (s : State) : (driveTemp2 s).draws = s.draws := rfl

/-! `offerEvent`. -/
@[simp] theorem offerEvent_psm (w : EvWord) (s : State) : (offerEvent w s).psm = s.psm := rfl
@[simp] theorem offerEvent_bitCount (w : EvWord) (s : State) : (offerEvent w s).bitCount = s.bitCount := rfl
@[simp] theorem offerEvent_waitCount (w : EvWord) (s : State) : (offerEvent w s).waitCount = s.waitCount := rfl
@[simp] theorem offerEvent_prevTs (w : EvWord) (s : State) : (offerEvent w s).prevTs = s.prevTs := rfl
@[simp] theorem offerEvent_frame (w : EvWord) (s : State) : (offerEvent w s).frame = s.frame := rfl
@[simp] theorem offerEvent_cfg (w : EvWord) (s : State) : (offerEvent w s).cfg = s.cfg := rfl
@[simp] theorem offerEvent_outFifo (w : EvWord) (s : State) : (offerEvent w s).outFifo = s.outFifo := rfl
@[simp] theorem offerEvent_faults (w : EvWord) (s : State) : (offerEvent w s).faults = s.faults := rfl
@[simp] theorem offerEvent_params (w : EvWord) (s : State) : (offerEvent w s).params = s.params := rfl
@[simp] theorem offerEvent_wires (w : EvWord) (s : State) : (offerEvent w s).wires = s.wires := rfl
@[simp] theorem offerEvent_fi (w : EvWord) (s : State) : (offerEvent w s).fi = s.fi := rfl
@[simp] theorem offerEvent_history (w : EvWord) (s : State) : (offerEvent w s).history = s.history := rfl
@[simp] theorem offerEvent_popped (w : EvWord) (s : State) : (offerEvent w s).popped = s.popped := rfl
@[simp] theorem offerEvent_events (w : EvWord) (s : State) : (offerEvent w s).events = s.events ++ [w] := rfl
@[simp] theorem offerEvent_turns (w : EvWord) (s : State) : (offerEvent w s).turns = s.turns := rfl
@[simp] theorem offerEvent_running (w : EvWord) (s : State) : (offerEvent w s).running = s.running := rfl
@[simp] theorem offerEvent_draws (w : EvWord) (s : State) : (offerEvent w s).draws = s.draws := rfl

end Sys2Proof.Machine
end

