-- ==== Sys2Proof/Laws/Ops.lean ====
section
/-! SUPPORT. One lemma per shared operation of Machine/Ops.lean that says once what it can do. -/

namespace Sys2Proof.Machine

/-- The frame length as a number, for arithmetic (00_scope.md R7). -/
@[simp] theorem frameBits_eq : Config.frameBits = 104 := rfl

/-! Sequencing. -/

@[simp] theorem andThen_next (s : State) (f : State → Outcome State) : andThen (.next s) f = f s := rfl
@[simp] theorem andThen_fault (r : Fault) (f : State → Outcome State) : andThen (.fault r) f = .fault r := rfl
@[simp] theorem andThen_refused (r : Refusal) (f : State → Outcome State) : andThen (.refused r) f = .refused r := rfl

theorem andThen_eq_next (o : Outcome State) (f : State → Outcome State) (t : State) :
    andThen o f = .next t ↔ ∃ s, o = .next s ∧ f s = .next t := by
  cases o <;> simp [andThen]

/-! The frame buffer. -/

@[simp] theorem readSlot_zero (f : Frame) : readSlot f 0 = false := rfl

theorem readSlot_of_pos (f : Frame) (i : Nat) (h : 0 < i) : readSlot f i = f.getLsbD i := by
  simp [readSlot, Nat.ne_of_gt h]

theorem getLsbD_writeSlot (f : Frame) (i j : Nat) (b : Bool) :
    (writeSlot f i b).getLsbD j = if j = i ∧ 0 < i ∧ i < 104 then b else f.getLsbD j := by
  by_cases hi : i = 0
  · simp [writeSlot, hi]
  · by_cases hj : j = i
    · subst hj
      by_cases hl : j < 104
      · cases b <;> simp [writeSlot, hi, hl, Nat.pos_of_ne_zero hi]
      · cases b <;> simp [writeSlot, hi, hl, BitVec.getLsbD_of_ge _ _ (Nat.le_of_not_lt hl)]
    · have hne : ¬ i = j := fun h => hj h.symm
      cases b
      · by_cases hl : j < 104
        · simp [writeSlot, hi, hj, hl]
        · simp [writeSlot, hi, hj, hl, BitVec.getLsbD_of_ge f _ (Nat.le_of_not_lt hl)]
      · simp [writeSlot, hi, hj, hne, BitVec.getLsbD_twoPow]

theorem readSlot_writeSlot (f : Frame) (i j : Nat) (b : Bool) :
    readSlot (writeSlot f i b) j = if j = i ∧ 0 < i ∧ i < 104 then b else readSlot f j := by
  by_cases hj : j = 0
  · subst hj
    have : ¬ (0 = i ∧ 0 < i ∧ i < 104) := by omega
    simp [this]
  · simp [readSlot, hj, getLsbD_writeSlot]

theorem getLsbD_frameContent (f : Frame) (i : Nat) : (frameContent f).getLsbD i = readSlot f i := by
  by_cases hi : i = 0
  · subst hi; simp [frameContent]
  · by_cases hl : i < 104
    · simp [frameContent, readSlot, hi, hl]
    · simp [frameContent, readSlot, hi, hl, BitVec.getLsbD_of_ge f _ (Nat.le_of_not_lt hl)]

/-- Frames that read the same in every slot are copied to the same frame. -/
theorem frameContent_congr (f g : Frame) (h : ∀ i, i < 104 → readSlot f i = readSlot g i) :
    frameContent f = frameContent g := by
  apply BitVec.eq_of_getLsbD_eq
  intro i hi
  simp only [getLsbD_frameContent, h i hi]

@[simp] theorem slotExists_eq (i : BitVec 7) : slotExists i = decide (i.toNat < 104) := rfl

/-- A write to an index that names no slot. -/
theorem storeSlot_fault (i : BitVec 7) (b : Bool) (s : State) (h : 104 ≤ i.toNat) :
    storeSlot i b s = .fault (.noSuchSlot i) := by
  simp [storeSlot, Nat.not_lt.mpr h]

theorem storeSlot_eq_next (i : BitVec 7) (b : Bool) (s t : State) :
    storeSlot i b s = .next t ↔ i.toNat < 104 ∧ t = { s with frame := writeSlot s.frame i.toNat b } := by
  by_cases h : i.toNat < 104
  · simp [storeSlot, h, eq_comm]
  · simp [storeSlot, h]

/-- The state after the Data bit write. -/
theorem appendBit_eq_next (flip : Bool) (s t : State) :
    appendBit flip s = .next t ↔ 0 < s.bitCount.toNat ∧ s.bitCount.toNat < 104 ∧
      t = { s with
            frame := writeSlot s.frame s.bitCount.toNat (xor (readSlot s.frame (s.bitCount.toNat - 1)) flip),
            bitCount := s.bitCount + 1 } := by
  by_cases h0 : s.bitCount = 0
  · simp [appendBit, h0]
  · have hp : 0 < s.bitCount.toNat := by
      rcases Nat.eq_zero_or_pos s.bitCount.toNat with h | h
      · exact absurd (BitVec.eq_of_toNat_eq (by simpa using h)) h0
      · exact h
    simp only [appendBit, h0, if_false, andThen_eq_next, storeSlot_eq_next, hp, true_and]
    constructor
    · rintro ⟨u, ⟨hl, rfl⟩, h⟩
      exact ⟨hl, by simpa [eq_comm] using h⟩
    · rintro ⟨hl, rfl⟩
      exact ⟨_, ⟨hl, rfl⟩, rfl⟩

/-- A Data bit write from an index that names no slot, or from 0. -/
theorem appendBit_fault (flip : Bool) (s : State) (h : s.bitCount.toNat = 0 ∨ 104 ≤ s.bitCount.toNat) :
    appendBit flip s = .fault (.noSuchSlot s.bitCount) := by
  by_cases h0 : s.bitCount = 0
  · simp [appendBit, h0]
  · have hn : s.bitCount.toNat ≠ 0 := fun hz => h0 (BitVec.eq_of_toNat_eq (by simpa using hz))
    simp only [appendBit, h0, if_false, storeSlot_fault _ _ _ (h.resolve_left hn), andThen_fault]

/-! The queue and completion. -/

theorem popFrame_nil (s : State) (h : s.outFifo = []) : popFrame s = s := by simp [popFrame, h]

theorem popFrame_cons (s : State) (f : Frame) (rest : List Frame) (h : s.outFifo = f :: rest) :
    popFrame s = { s with outFifo := rest, popped := s.popped ++ [f], fi := { s.fi with frame := f } } := by
  simp [popFrame, h]

/-- Everything the completion sub-step can do. -/
theorem completeFrame_cases (s : State) :
    (s.bitCount.toNat < 104 ∧ completeFrame s = s) ∨
    (104 ≤ s.bitCount.toNat ∧ fifoFull s = true ∧ completeFrame s = s) ∨
    (104 ≤ s.bitCount.toNat ∧ fifoFull s = false ∧
      completeFrame s = { s with
        outFifo := s.outFifo ++ [frameContent s.frame], frame := 0, bitCount := 0, waitCount := false, psm := .idle,
        wires := { s.wires with status := .frameDone, dbgDerr := false } }) := by
  by_cases h : 104 ≤ s.bitCount.toNat
  · cases hf : fifoFull s
    · refine .inr (.inr ⟨h, rfl, ?_⟩)
      simp [completeFrame, h, hf, report, pushFrame]
    · exact .inr (.inl ⟨h, rfl, by simp [completeFrame, h, hf]⟩)
  · exact .inl ⟨Nat.lt_of_not_le h, by simp [completeFrame, h]⟩

theorem completionBlocked_iff (s : State) :
    completionBlocked s = true ↔ s.bitCount.toNat = 103 ∧ fifoFull s = true := by
  constructor
  · intro h
    simp only [completionBlocked, Bool.and_eq_true, beq_iff_eq] at h
    exact ⟨by rw [h.1]; rfl, h.2⟩
  · rintro ⟨h, hf⟩
    have : s.bitCount = 103 := BitVec.eq_of_toNat_eq (by simpa using h)
    simp [completionBlocked, this, hf]

theorem configure_eq_next (c : Thresholds) (s t : State) :
    configure c s = .next t ↔
      c.wf = true ∧ (s.running = true → runOver s = false → c = s.cfg) ∧ t = { s with cfg := c } := by
  unfold configure
  cases hw : c.wf
  · simp
  · cases hr : s.running
    · simpa using eq_comm
    · by_cases hc : c = s.cfg
      · simpa [hc] using eq_comm
      · cases ho : runOver s
        · simp [hc]
        · simpa using eq_comm

/-- What the end of a run takes (70_reset_and_hazards.md R240); with no event offered nothing is held. -/
theorem runOver_iff (s : State) :
    runOver s = true ↔ s.events = [] ∧ offersLeft s.turns = false ∧ s.outFifo = [] ∧ s.faults = [] := by
  constructor
  · intro h
    simp only [runOver, Bool.and_eq_true, List.isEmpty_iff, Bool.not_eq_true'] at h
    exact ⟨h.1.1.1.1, h.1.1.1.2, h.1.2, h.2⟩
  · rintro ⟨h1, h2, h3, h4⟩
    simp [runOver, isHeld, h1, h2, h3, h4]

theorem fifoFull_eq_true (s : State) :
    fifoFull s = true ↔ ∃ d, s.params.fifoDepth = some d ∧ d ≤ s.outFifo.length := by
  cases h : s.params.fifoDepth <;> simp [fifoFull, h]

end Sys2Proof.Machine
end

