-- ==== Sys2Proof/Laws/Step.lean ====
section
/-! SUPPORT. What one step can do, said once: the inversion of the decoder step, of a turn and of the step. -/

namespace Sys2Proof.Machine

/-- What an operation of the PSM can do when it answers a next state: one disjunct for each kind of effect
(41_state_machine.md R123 to R136). -/
theorem exec_psm_cases (w : Edw) (s t : State) (h : exec (decodeEdw w) s = .next t) :
    t = s ∨ t = { s with bitCount := 0, waitCount := false, psm := .preamble } ∨
    (∃ e wt, decodeEdw w = .preFirstPair e wt ∧ execPreFirstPair e wt s = .next t) ∨
    t = takeError .preambleError s ∨ t = takeError .dataError s ∨ t = setWait true s ∨
    t = raiseFault .reservedState s ∨
    (∃ flip wt u, (flip = false → wt = false) ∧ (flip = true → wt = s.waitCount) ∧ completionBlocked s = false ∧
      appendBit flip s = .next u ∧ t = completeFrame (setWait wt u)) := by
  revert h
  generalize hi : decodeEdw w = i
  have hk : encode i = .psm w := by rw [← hi]; exact encode_decodeEdw w
  cases i <;> try (simp [encode] at hk; done)
  all_goals intro h
  case idleSync => right; left; simpa [exec, execIdleSync, setWait, eq_comm] using h
  case idleStay => left; simpa [exec, execIdleStay, eq_comm] using h
  case preFirstPair e wt => right; right; left; exact ⟨e, wt, rfl, h⟩
  case preHalf => left; simpa [exec, execPreHalf, eq_comm] using h
  case preResync => left; simpa [exec, execPreResync, eq_comm] using h
  case preError => right; right; right; left; simpa [exec, execPreError, eq_comm] using h
  case dataHalf => right; right; right; right; right; left; simpa [exec, execDataHalf, eq_comm] using h
  case dataRepeat e =>
    by_cases hb : completionBlocked s = true
    · left; simpa [exec, execDataRepeat, hb, eq_comm] using h
    · simp only [exec, execDataRepeat, hb, Bool.false_eq_true, if_false, andThen_eq_next, execCompleteRepeat] at h
      obtain ⟨u, hu, h⟩ := h
      refine .inr (.inr (.inr (.inr (.inr (.inr (.inr ⟨false, false, u, ?_⟩))))))
      exact ⟨fun _ => rfl, by simp, by simpa using hb, hu, by simpa [eq_comm] using h⟩
  case dataToggle e =>
    by_cases hb : completionBlocked s = true
    · left; simpa [exec, execDataToggle, hb, eq_comm] using h
    · simp only [exec, execDataToggle, hb, Bool.false_eq_true, if_false, andThen_eq_next, execCompleteToggle] at h
      obtain ⟨u, hu, h⟩ := h
      have hwu : setWait s.waitCount u = u := by
        rw [appendBit_eq_next] at hu
        obtain ⟨-, -, rfl⟩ := hu
        rfl
      refine .inr (.inr (.inr (.inr (.inr (.inr (.inr ⟨true, s.waitCount, u, ?_⟩))))))
      exact ⟨by simp, fun _ => rfl, by simpa using hb, hu, by simpa [hwu, eq_comm] using h⟩
  case dataPairError => right; right; right; right; left; simpa [exec, execDataPairError, eq_comm] using h
  case dataClassError => right; right; right; right; left; simpa [exec, execDataClassError, eq_comm] using h
  case reservedState => right; right; right; right; right; right; left; simpa [exec, execReservedState, eq_comm] using h

theorem preIncrementWrite_eq_next (b : Bool) (s t : State) :
    preIncrementWrite b s = .next t ↔ (s.bitCount + 1).toNat < 104 ∧
      t = { s with frame := writeSlot s.frame (s.bitCount + 1).toNat b, bitCount := s.bitCount + 1 } := by
  simp [preIncrementWrite, storeSlot_eq_next]

/-- PRE_FIRST_PAIR's two writes (41_state_machine.md R125). -/
theorem execPreFirstPair_eq_next (e wt : Bool) (s t : State) :
    execPreFirstPair e wt s = .next t ↔
      (s.bitCount + 1).toNat < 104 ∧ (s.bitCount + 1 + 1).toNat < 104 ∧
      t = { s with
            frame := writeSlot (writeSlot s.frame (s.bitCount + 1).toNat (!e)) (s.bitCount + 1 + 1).toNat e,
            bitCount := s.bitCount + 1 + 1, psm := .data } := by
  simp only [execPreFirstPair, andThen_eq_next, preIncrementWrite_eq_next, Bool.xor_true]
  constructor
  · rintro ⟨u, ⟨h1, rfl⟩, v, ⟨h2, rfl⟩, h⟩
    exact ⟨h1, h2, by simpa [eq_comm] using h⟩
  · rintro ⟨h1, h2, rfl⟩
    exact ⟨_, ⟨h1, rfl⟩, _, ⟨h2, rfl⟩, rfl⟩

/-- What no operation of the PSM changes. -/
structure PsmFrame (s t : State) : Prop where
  prevTs : t.prevTs = s.prevTs
  cfg : t.cfg = s.cfg
  params : t.params = s.params
  fi : t.fi = s.fi
  history : t.history = s.history
  popped : t.popped = s.popped
  events : t.events = s.events
  turns : t.turns = s.turns
  running : t.running = s.running
  draws : t.draws = s.draws
  dt : t.wires.dt = s.wires.dt
  edge : t.wires.edge = s.wires.edge
  cls : t.wires.cls = s.wires.cls
  edw : t.wires.edw = s.wires.edw
  dbgSync : t.wires.dbgSync = s.wires.dbgSync

theorem exec_psm_frame (w : Edw) (s t : State) (h : exec (decodeEdw w) s = .next t) : PsmFrame s t := by
  rcases exec_psm_cases w s t h with rfl | rfl | ⟨e, wt, -, hp⟩ | rfl | rfl | rfl | rfl | ⟨flip, wt, u, -, -, -, hu, rfl⟩
  any_goals (constructor <;> rfl)
  · rw [execPreFirstPair_eq_next] at hp
    obtain ⟨-, -, rfl⟩ := hp
    constructor <;> rfl
  · rw [appendBit_eq_next] at hu
    obtain ⟨-, -, rfl⟩ := hu
    rcases completeFrame_cases (setWait wt { s with
        frame := writeSlot s.frame s.bitCount.toNat (xor (readSlot s.frame (s.bitCount.toNat - 1)) flip),
        bitCount := s.bitCount + 1 }) with ⟨-, hc⟩ | ⟨-, -, hc⟩ | ⟨-, -, hc⟩ <;>
    rw [hc] <;> constructor <;> rfl

/-- The values of a step on an event, before its operation runs (41_state_machine.md R120). -/
def stepWires (ev : Evw) (s : State) : Wires :=
  { dt := ev.ts - s.prevTs, edge := !ev.level, cls := classOf s.cfg (ev.ts - s.prevTs), edw := edwFor ev s,
    status := .none, dbgSync := s.params.hasDebug, dbgDerr := false }

/-- The decoder step is its selected operation on the sensed state, then the step's end. -/
theorem decoderStep_eq (ev : Evw) (s : State) :
    decoderStep ev s =
      andThen (exec (selected ev s) { s with prevTs := ev.ts, wires := stepWires ev s }) fun u =>
        .next (leaveStep ev (decodeEdw u.wires.edw) u) := rfl

/-- What a decoder step leaves: the operation's effect, its entry recorded under the operation selected. -/
theorem decoderStep_eq_next (ev : Evw) (s t : State) :
    decoderStep ev s = .next t ↔
      ∃ u, exec (selected ev s) { s with prevTs := ev.ts, wires := stepWires ev s } = .next u ∧
        t = leaveStep ev (selected ev s) u := by
  rw [decoderStep_eq, andThen_eq_next]
  constructor
  · rintro ⟨u, hu, h⟩
    have hf := (exec_psm_frame _ _ _ hu).edw
    refine ⟨u, hu, ?_⟩
    have he : decodeEdw u.wires.edw = selected ev s := by rw [hf]; rfl
    rw [he] at h
    simpa [eq_comm] using h
  · rintro ⟨u, hu, rfl⟩
    have hf := (exec_psm_frame _ _ _ hu).edw
    refine ⟨u, hu, ?_⟩
    have he : decodeEdw u.wires.edw = selected ev s := by rw [hf]; rfl
    rw [he]

theorem guardLaunch_eq_next (s : State) (o : Outcome State) (t : State) :
    guardLaunch s o = .next t ↔ s.cfg.wf = true ∧ o = .next t := by
  cases h : s.cfg.wf <;> simp [guardLaunch, h]

/-- The decoder's turn: it waits, or it accepts the event offered. -/
theorem decoderTurn_eq_next (s t : State) :
    decoderTurn s = .next t ↔
      (t = s ∧ ∀ w rest, s.events = w :: rest → enabled (Evw.ofWord w) s = false) ∨
      ∃ w rest, s.events = w :: rest ∧ enabled (Evw.ofWord w) s = true ∧
        decoderStep (Evw.ofWord w) { s with events := rest } = .next t := by
  unfold decoderTurn
  cases he : s.events with
  | nil => simpa using eq_comm
  | cons w rest =>
    cases hw : enabled (Evw.ofWord w) s
    · constructor
      · intro h
        have h' : s = t := by simpa [hw] using h
        refine .inl ⟨h'.symm, ?_⟩
        rintro w' rest' h'
        obtain ⟨rfl, rfl⟩ := List.cons.inj h'
        exact hw
      · rintro (⟨rfl, -⟩ | ⟨w', rest', h', hw', -⟩)
        · simp [hw]
        · obtain ⟨rfl, rfl⟩ := List.cons.inj h'
          rw [hw] at hw'
          exact absurd hw' (by simp)
    · constructor
      · intro h
        exact .inr ⟨w, rest, rfl, hw, by simpa [hw] using h⟩
      · rintro (⟨-, h⟩ | ⟨w', rest', h', -, h⟩)
        · have := h w rest rfl
          rw [hw] at this
          exact absurd this (by simp)
        · obtain ⟨rfl, rfl⟩ := List.cons.inj h'
          simpa [hw] using h

/-- Everything one step can do when it answers a next state: the host's reset or configuration, the edge source's turn, the
consumer's turn, or the decoder's, which waits or accepts the event offered. -/
theorem step_cases (s t : State) (h : step s = .next t) :
    (∃ rest, s.turns = .reset :: rest ∧ t = resetCore { s with turns := rest }) ∨
    (∃ c rest, s.turns = .cfg c :: rest ∧ c.wf = true ∧
      (s.running = true → runOver { s with turns := rest } = false → c = s.cfg) ∧
      t = { s with turns := rest, cfg := c }) ∨
    (∃ w rest, s.turns = .offer w :: rest ∧ s.cfg.wf = true ∧ t = offerEvent w { s with turns := rest }) ∨
    (∃ w rest, s.turns = .consumer w :: rest ∧ s.cfg.wf = true ∧
      exec (decodeConsumer w) { s with turns := rest } = .next t) ∨
    (∃ rest, s.turns = .interpret :: rest ∧ s.cfg.wf = true ∧
      exec (.fiOutputs s.fi.frame) { s with turns := rest } = .next t) ∨
    (decoderMoves s = true ∧ s.cfg.wf = true ∧
      ((t = { s with turns := s.turns.tail } ∧
          ∀ w rest, s.events = w :: rest → enabled (Evw.ofWord w) s = false) ∨
       ∃ w rest, s.events = w :: rest ∧ enabled (Evw.ofWord w) s = true ∧
          decoderStep (Evw.ofWord w) { s with turns := s.turns.tail, events := rest } = .next t)) := by
  simp only [step, turnStep] at h
  cases ht : s.turns with
  | nil =>
    rw [ht] at h
    right; right; right; right; right
    simp only [lastTurn] at h
    split at h
    · rw [guardLaunch_eq_next] at h; simp at h
    · rw [guardLaunch_eq_next, decoderTurn_eq_next] at h
      obtain ⟨hc, h⟩ := h
      refine ⟨by simp [decoderMoves, ht], hc, ?_⟩
      have hs : { s with turns := ([] : List Turn).tail } = s := by cases s; simp_all
      rcases h with ⟨rfl, h⟩ | ⟨w, rest, he, hw, h⟩
      · left; exact ⟨hs.symm, h⟩
      · right; refine ⟨w, rest, he, hw, ?_⟩
        rw [← h]; congr 1; cases s; simp_all
  | cons tn rest =>
    rw [ht] at h
    cases tn with
    | offer w =>
      right; right; left
      simp only [takeTurn, guardLaunch_eq_next, Host.Outcome.next.injEq] at h
      exact ⟨w, rest, rfl, h.1, h.2.symm⟩
    | decoder =>
      right; right; right; right; right
      simp only [takeTurn, guardLaunch_eq_next, decoderTurn_eq_next] at h
      obtain ⟨hc, h⟩ := h
      refine ⟨by simp [decoderMoves, ht], hc, ?_⟩
      rcases h with ⟨rfl, h⟩ | ⟨w, rest', he, hw, h⟩
      · left; exact ⟨rfl, h⟩
      · right; exact ⟨w, rest', he, hw, h⟩
    | consumer w =>
      right; right; right; left
      simp only [takeTurn, guardLaunch_eq_next] at h
      exact ⟨w, rest, rfl, h.1, h.2⟩
    | interpret =>
      right; right; right; right; left
      simp only [takeTurn, guardLaunch_eq_next] at h
      exact ⟨rest, rfl, h.1, h.2⟩
    | reset =>
      left
      exact ⟨rest, rfl, by simpa [takeTurn, exec, execReset, eq_comm] using h⟩
    | cfg c =>
      right; left
      simp only [takeTurn, configure_eq_next] at h
      exact ⟨c, rest, rfl, h.1, h.2.1, h.2.2⟩

/-- What a consumer's operation can do: only the queue's head, the frames popped and the FI's ports change. -/
theorem exec_consumer_next (w : ConsumerWord) (s t : State) (h : exec (decodeConsumer w) s = .next t) :
    t = popFrame s ∨ t = { s with fi := t.fi } := by
  cases w with
  | pop => left; simpa [decodeConsumer, exec, execPop, eq_comm] using h
  | nibblePack f =>
    right
    simp only [decodeConsumer, exec, execNibblePack, Host.Outcome.next.injEq] at h
    rw [← h]; rfl
  | digitMap v =>
    right
    simp only [decodeConsumer, decodeNib] at h
    split at h
    · simp only [exec, execDigit0, Host.Outcome.next.injEq] at h; rw [← h]; rfl
    split at h
    · simp only [exec, execDigit1, Host.Outcome.next.injEq] at h; rw [← h]; rfl
    split at h
    · simp only [exec, execDigit2, Host.Outcome.next.injEq] at h; rw [← h]; rfl
    split at h
    · simp only [exec, execDigit3, Host.Outcome.next.injEq] at h; rw [← h]; rfl
    · simp only [exec, execDigitInvalid, Host.Outcome.next.injEq] at h; rw [← h]; rfl
  | tempDecode p =>
    right
    simp only [decodeConsumer, decodePsel] at h
    split at h
    · simp only [exec, execTempDecodeP1, Host.Outcome.next.injEq] at h; rw [← h]; rfl
    · simp only [exec, execTempDecodeP2, Host.Outcome.next.injEq] at h; rw [← h]; rfl
  | fiOutputs f =>
    right
    simp only [decodeConsumer, exec, execFiOutputs, Host.Outcome.next.injEq] at h
    rw [← h]; rfl

end Sys2Proof.Machine
end

