-- ==== Sys2Proof/Laws/Operations.lean ====
section
/-! SUPPORT. When an event is accepted and what its step then is, which operation each state selects, and what the bit writes and
the interpreter's functions give. -/

namespace Sys2Proof.Machine

/-- What accepting an event takes (41_state_machine.md R120, R137, 60_exceptions.md R207). -/
theorem accepts_iff (w : EvWord) (s : State) :
    accepts w s = true ↔
      decoderMoves s = true ∧ (∃ rest, s.events = w :: rest) ∧ s.cfg.wf = true ∧ s.faults = [] ∧
        held (Evw.ofWord w) s = false := by
  simp only [accepts, Bool.and_eq_true, beq_iff_eq, List.isEmpty_iff, Bool.not_eq_true']
  constructor
  · rintro ⟨⟨⟨⟨h1, h2⟩, h3⟩, h4⟩, h5⟩
    refine ⟨h1, ?_, h3, h4, h5⟩
    cases he : s.events with
    | nil => simp [he] at h2
    | cons a l =>
      simp [he] at h2
      exact ⟨l, by rw [h2]⟩
  · rintro ⟨h1, ⟨r, h2⟩, h3, h4, h5⟩
    simp [h1, h2, h3, h4, h5]

/-- The step on an accepted event is the decoder step, with the turn and the event taken. -/
theorem step_of_accepts (w : EvWord) (s : State) (h : accepts w s = true) :
    step s = decoderStep (Evw.ofWord w) { s with turns := s.turns.tail, events := s.events.tail } := by
  obtain ⟨h1, ⟨r, h2⟩, h3, h4, h5⟩ := (accepts_iff w s).1 h
  have hen : enabled (Evw.ofWord w) s = true := by simp [enabled, h4, h5]
  unfold step turnStep
  cases ht : s.turns with
  | nil =>
    have hs : { s with turns := ([] : List Turn).tail, events := s.events.tail } = { s with events := r } := by
      cases s; simp_all
    simp only [lastTurn, h4, List.isEmpty_nil, Bool.not_true, Bool.false_and, Bool.false_eq_true, if_false,
      guardLaunch, h3, if_true, decoderTurn, h2, hen]
    rw [h2] at hs
    simp at hs
    simp [hs]
  | cons t ts =>
    cases t <;> simp [decoderMoves, ht] at h1
    have hen' : enabled (Evw.ofWord w) { s with turns := ts } = true := hen
    simp only [takeTurn, guardLaunch, h3, if_true, decoderTurn, h2, List.tail_cons]
    rw [if_pos]
    rw [← h2]
    exact hen'

/-! The operation selected in each state (30_encoding.md R75). -/

theorem selected_of_idle (ev : Evw) (s : State) (h : s.psm = .idle) :
    selected ev s =
      if classFor ev s = .twentyClock ∧ ev.level = true then .idleSync s.waitCount
      else .idleStay (classFor ev s).code (!ev.level) s.waitCount := by
  rw [selected_eq, h, decodeEdw_idle]
  cases ev.level <;> simp [classFor]

theorem selected_of_preamble (ev : Evw) (s : State) (h : s.psm = .preamble) :
    selected ev s =
      if classFor ev s = .twoClock then .preFirstPair (!ev.level) s.waitCount
      else if classFor ev s = .oneClock ∧ ev.level = false then .preHalf s.waitCount
      else if classFor ev s = .twentyClock ∧ ev.level = true then .preResync s.waitCount
      else .preError (classFor ev s).code (!ev.level) s.waitCount := by
  rw [selected_eq, h, decodeEdw_preamble]
  cases ev.level <;> simp [classFor]

theorem selected_of_data (ev : Evw) (s : State) (h : s.psm = .data) :
    selected ev s =
      if classFor ev s = .oneClock then
        (if s.waitCount then .dataRepeat (!ev.level) else .dataHalf (!ev.level))
      else if classFor ev s = .twoClock then
        (if s.waitCount then .dataPairError (!ev.level) else .dataToggle (!ev.level))
      else .dataClassError (classFor ev s).code (!ev.level) s.waitCount := by
  rw [selected_eq, h, decodeEdw_data]
  rfl

theorem selected_of_reserved (ev : Evw) (s : State) (h : s.psm = .reserved) :
    selected ev s = .reservedState (classFor ev s).code (!ev.level) s.waitCount := by
  rw [selected_eq, h, decodeEdw_reserved]
  simp [classFor]

/-! The bit writes. -/

theorem toNat_succ (b : BitVec 7) (h : b.toNat ≤ 126) : (b + 1).toNat = b.toNat + 1 := by
  simp [BitVec.toNat_add]; omega

theorem completionBlocked_of_ne (s : State) (h : s.bitCount.toNat ≠ 103) : completionBlocked s = false := by
  cases hb : completionBlocked s with
  | false => rfl
  | true => exact absurd ((completionBlocked_iff s).1 hb).1 h

theorem completionBlocked_of_room (s : State) (h : fifoFull s = false) : completionBlocked s = false := by
  simp [completionBlocked, h]

theorem completeFrame_of_lt (s : State) (h : s.bitCount.toNat < 104) : completeFrame s = s := by
  rcases completeFrame_cases s with ⟨_, h1⟩ | ⟨_, _, h1⟩ | ⟨h2, _⟩
  · exact h1
  · exact h1
  · omega

/-- DATA_REPEAT where it does not hold and its indices exist: the bit write, then the completion sub-step. -/
theorem execDataRepeat_eq (e : Bool) (s : State) (hb : completionBlocked s = false) (h1 : 0 < s.bitCount.toNat)
    (h2 : s.bitCount.toNat < 104) :
    execDataRepeat e s = .next (completeFrame { s with
      frame := writeSlot s.frame s.bitCount.toNat (readSlot s.frame (s.bitCount.toNat - 1)),
      bitCount := s.bitCount + 1, waitCount := false }) := by
  simp only [execDataRepeat, hb, Bool.false_eq_true, if_false]
  rw [(appendBit_eq_next _ _ _).2 ⟨h1, h2, rfl⟩, Bool.xor_false]
  rfl

/-- DATA_TOGGLE where it does not hold and its indices exist. -/
theorem execDataToggle_eq (e : Bool) (s : State) (hb : completionBlocked s = false) (h1 : 0 < s.bitCount.toNat)
    (h2 : s.bitCount.toNat < 104) :
    execDataToggle e s = .next (completeFrame { s with
      frame := writeSlot s.frame s.bitCount.toNat (!readSlot s.frame (s.bitCount.toNat - 1)),
      bitCount := s.bitCount + 1 }) := by
  simp only [execDataToggle, hb, Bool.false_eq_true, if_false]
  rw [(appendBit_eq_next _ _ _).2 ⟨h1, h2, rfl⟩, Bool.xor_true]
  rfl

/-! The interpreter's functions. -/

theorem digitAt_range (f : Frame) (o k : Nat) : 0 ≤ digitAt f o k ∧ digitAt f o k ≤ 3 := by
  have h := (digitMap (nibble f (o + k))).1.isLt
  simp only [digitAt]
  omega

/-- The error bit says that some nibble of the window is invalid (42_frame_interpreter.md R170). -/
theorem tempErr_iff (f : Frame) (o : Nat) :
    tempErr f o = true ↔ ∃ n, o ≤ n ∧ n ≤ o + 4 ∧ (digitMap (nibble f n)).2 = true := by
  simp only [tempErr, List.any_eq_true, List.mem_range, invalidAt]
  constructor
  · rintro ⟨x, hx, h⟩
    have hx : x < 5 := hx
    exact ⟨o + x, by omega, by omega, h⟩
  · rintro ⟨n, h1, h2, h⟩
    exact ⟨n - o, show n - o < 5 by omega, by rw [show o + (n - o) = n by omega]; exact h⟩

/-- Each step of the fold in `frameOfNibbles` sets one slot. -/
theorem frameOfNibbles_fold (ns : List Nib) (l : List Nat) (f : Frame) (i : Nat) (hi : i < 104) :
    (l.foldl (fun f i => if (ns.getD (i / 4) 0).getLsbD (3 - i % 4) then f ||| BitVec.twoPow 104 i else f) f).getLsbD i
      = (f.getLsbD i || (decide (i ∈ l) && (ns.getD (i / 4) 0).getLsbD (3 - i % 4))) := by
  induction l generalizing f with
  | nil => simp
  | cons a l ih =>
    rw [List.foldl_cons, ih]
    by_cases ha : i = a
    · subst ha
      by_cases hb : (ns.getD (i / 4) 0).getLsbD (3 - i % 4) = true
      · rw [if_pos hb, hb]; simp [hi]
      · simp only [hb]; simp
    · have : ¬ a = i := fun h => ha h.symm
      split_ifs
      · simp [BitVec.getLsbD_twoPow, ha, this]
      · simp [ha]

/-- Slot i of the frame with a nibble sequence. -/
theorem getLsbD_frameOfNibbles (ns : List Nib) (i : Nat) (hi : i < 104) :
    (frameOfNibbles ns).getLsbD i = (ns.getD (i / 4) 0).getLsbD (3 - i % 4) := by
  rw [frameOfNibbles, frameOfNibbles_fold _ _ _ _ hi]
  simp [hi]

end Sys2Proof.Machine
end

