-- ==== Sys2Proof/Laws/PerInstr.lean ====
section
/-! SUPPORT. Statements about every instruction, one lemma per constructor of Instr. -/

/-! RoundTrip: the word of a well-formed instruction decodes to it, every operand at every value. -/
namespace Sys2Proof.Laws.RoundTrip

open Sys2Proof

def Statement (i : Instr) : Prop := i.wf = true → decode (encode i) = .ok i

theorem timestamp (ev : Evw) : Statement (.timestamp ev) := fun _ => by
  simp only [encode, decode, Evw.ofWord_word]

theorem edgeBit (ev : Evw) : Statement (.edgeBit ev) := fun _ => by
  simp only [encode, decode, Evw.ofWord_word]

theorem classify (ev : Evw) : Statement (.classify ev) := fun _ => by
  simp only [encode, decode, Evw.ofWord_word]

theorem idleSync (wait : Bool) : Statement (.idleSync wait) := by
  revert wait; unfold Statement; decide

theorem idleStay (cls : BitVec 3) (edge wait : Bool) : Statement (.idleStay cls edge wait) := by
  revert cls edge wait; unfold Statement; decide

theorem preFirstPair (edge wait : Bool) : Statement (.preFirstPair edge wait) := by
  revert edge wait; unfold Statement; decide

theorem preHalf (wait : Bool) : Statement (.preHalf wait) := by
  revert wait; unfold Statement; decide

theorem preResync (wait : Bool) : Statement (.preResync wait) := by
  revert wait; unfold Statement; decide

theorem preError (cls : BitVec 3) (edge wait : Bool) : Statement (.preError cls edge wait) := by
  revert cls edge wait; unfold Statement; decide

theorem dataHalf (edge : Bool) : Statement (.dataHalf edge) := by
  revert edge; unfold Statement; decide

theorem dataRepeat (edge : Bool) : Statement (.dataRepeat edge) := by
  revert edge; unfold Statement; decide

theorem dataToggle (edge : Bool) : Statement (.dataToggle edge) := by
  revert edge; unfold Statement; decide

theorem dataPairError (edge : Bool) : Statement (.dataPairError edge) := by
  revert edge; unfold Statement; decide

theorem dataClassError (cls : BitVec 3) (edge wait : Bool) : Statement (.dataClassError cls edge wait) := by
  revert cls edge wait; unfold Statement; decide

theorem reservedState (cls : BitVec 3) (edge wait : Bool) : Statement (.reservedState cls edge wait) := by
  revert cls edge wait; unfold Statement; decide

theorem completeRepeat (edge : Bool) : Statement (.completeRepeat edge) := by
  revert edge; unfold Statement; decide

theorem completeToggle (edge : Bool) : Statement (.completeToggle edge) := by
  revert edge; unfold Statement; decide

theorem nibblePack (frame : Frame) : Statement (.nibblePack frame) := fun _ => rfl

theorem digit0 : Statement .digit0 := fun _ => rfl

theorem digit1 : Statement .digit1 := fun _ => rfl

theorem digit2 : Statement .digit2 := fun _ => rfl

theorem digit3 : Statement .digit3 := fun _ => rfl

theorem digitInvalid (v : Nib) : Statement (.digitInvalid v) := by
  revert v; unfold Statement; decide

theorem tempDecodeP1 : Statement .tempDecodeP1 := fun _ => rfl

theorem tempDecodeP2 : Statement .tempDecodeP2 := fun _ => rfl

theorem fiOutputs (frame : Frame) : Statement (.fiOutputs frame) := fun _ => rfl

theorem pop : Statement .pop := fun _ => rfl

theorem reset : Statement .reset := fun _ => rfl

end Sys2Proof.Laws.RoundTrip
end

