-- ==== Sys2Proof/Tests/Slice0.lean ====
section
/-! SUPPORT. Own tests: the well-formedness checks refuse an ill-formed term each; one word per constructor, written out from
30_encoding.md; vectors of 95_test_vectors.md; for every obligation with hypotheses, data that meet them. -/

namespace Sys2Proof.Tests

open Sys2Proof.Machine

/-! ## Helpers -/

/-- The start of the vectors of 95_test_vectors.md section 2.3: `TC`, `FIFO_DEPTH` 1, `PREV_TS` 10000. -/
def base (psm : Psm) (bc : BitVec 7) (wait : Bool) (frame : Frame) : State :=
  { State.launch Thresholds.tc { fifoDepth := some 1, hasDebug := true } 10000 with
    psm := psm, bitCount := bc, waitCount := wait, frame := frame }

/-- EVW of an event. -/
def ev (ts : Nat) (level : Bool) : EvWord := Evw.word { level := level, ts := BitVec.ofNat 32 ts }

/-- The vector's start with its event offered. -/
def offer (s : State) (ts : Nat) (level : Bool) : State := { s with events := [ev ts level] }

/-- The vector's start with the queue full. -/
def full (s : State) : State := { s with outFifo := [2] }

/-- The columns of section 2.3 after a step, and the debug strobes. -/
structure Row where
  edw : Nat
  psm : Psm
  bitCount : Nat
  wait : Bool
  frame : Nat
  status : EvStatus
  strobes : Option Strobes
deriving DecidableEq, Repr

/-- The row of the vector that starts in s. -/
def row (s : State) : Option Row :=
  match nextState (step s) with
  | none => none
  | some t =>
    match t.history.getLast? with
    | none => none
    | some e => some ⟨e.edw.toNat, t.psm, t.bitCount.toNat, t.waitCount, t.frame.toNat, e.status, e.strobes⟩

/-- The strobes of a step that is no data error. -/
def quiet : Option Strobes := some { sync := true, derr := false }

/-- The strobes of a data error. -/
def alarm : Option Strobes := some { sync := true, derr := true }

/-- Does a step answer a next state? -/
def goesOn (s : State) : Bool := (nextState (step s)).isSome

/-- The frame with the nibbles w at nibble n. -/
def window (n : Nat) (w : List Nib) : Frame := frameOfNibbles (List.replicate n 0 ++ w)

/-! ## Well-formedness (one ill-formed term for each check) -/

theorem test_wf_idle_stay : (Instr.idleStay 3 false true).wf = false := by decide
theorem test_wf_pre_error_two_clock : (Instr.preError 2 true false).wf = false := by decide
theorem test_wf_pre_error_half : (Instr.preError 1 true false).wf = false := by decide
theorem test_wf_pre_error_resync : (Instr.preError 3 false false).wf = false := by decide
theorem test_wf_data_class_error : (Instr.dataClassError 1 true false).wf = false ∧
    (Instr.dataClassError 2 true false).wf = false := by decide
theorem test_wf_digit_invalid : (Instr.digitInvalid 5).wf = false ∧ (Instr.digitInvalid 6).wf = false ∧
    (Instr.digitInvalid 9).wf = false ∧ (Instr.digitInvalid 10).wf = false := by decide
theorem test_wf_cfg_c1 : (Thresholds.mk 1 1 2 3 3).wf = true := by decide
theorem test_wf_cfg_c4 : (Thresholds.mk 0 375 900 4000 6000).wf = false := by decide
theorem test_wf_cfg_c5 : (Thresholds.mk 150 375 900 900 6000).wf = false := by decide
theorem test_wf_cfg_c6 : (Thresholds.mk 150 375 900 4000 0xFFFFFFFF).wf = false := by decide
theorem test_wf_cfg_c7 : (Thresholds.mk 400 375 900 4000 6000).wf = false := by decide
theorem test_wf_cfg_two_max : (Thresholds.mk 150 375 375 4000 6000).wf = false := by decide
theorem test_wf_cfg_twenty : (Thresholds.mk 150 375 900 4000 3999).wf = false := by decide
theorem test_wf_params : (Params.mk (some 0) true).wf = false ∧ (Params.mk (some 1) true).wf = true := by decide

/-! ## Decoding: a word of each constructor, bit by bit from 30_encoding.md R71 to R80 -/

theorem test_decode_timestamp : decode (.timestamp 0b100000000000000000001001110001000) =
    .ok (.timestamp { level := true, ts := 5000 }) := by rfl
theorem test_decode_edge : decode (.edge 0b000000000000000000001010101111100) =
    .ok (.edgeBit { level := false, ts := 5500 }) := by rfl
theorem test_decode_classify : decode (.classify 0b111111111111111111111111111111111) =
    .ok (.classify { level := true, ts := 0xFFFFFFFF }) := by rfl
theorem test_decode_idle_sync : decode (.psm 0b0001101) = .ok (.idleSync true) := by rfl
theorem test_decode_idle_stay : decode (.psm 0b0001110) = .ok (.idleStay 0b011 true false) := by rfl
theorem test_decode_pre_first_pair : decode (.psm 0b0101010) = .ok (.preFirstPair true false) := by rfl
theorem test_decode_pre_half : decode (.psm 0b0100110) = .ok (.preHalf false) := by rfl
theorem test_decode_pre_resync : decode (.psm 0b0101100) = .ok (.preResync false) := by rfl
theorem test_decode_pre_error : decode (.psm 0b0110000) = .ok (.preError 0b100 false false) := by rfl
theorem test_decode_data_half : decode (.psm 0b1000110) = .ok (.dataHalf true) := by rfl
theorem test_decode_data_repeat : decode (.psm 0b1000111) = .ok (.dataRepeat true) := by rfl
theorem test_decode_data_toggle : decode (.psm 0b1001000) = .ok (.dataToggle false) := by rfl
theorem test_decode_data_pair_error : decode (.psm 0b1001001) = .ok (.dataPairError false) := by rfl
theorem test_decode_data_class_error : decode (.psm 0b1010011) = .ok (.dataClassError 0b100 true true) := by rfl
theorem test_decode_reserved_state : decode (.psm 0b1100100) = .ok (.reservedState 0b001 false false) := by rfl
theorem test_decode_complete_repeat : decode (.completion 0b1000101) = .ok (.completeRepeat false) := by rfl
theorem test_decode_complete_toggle : decode (.completion 0b1001010) = .ok (.completeToggle true) := by rfl
theorem test_decode_no_completion : decode (.completion 0b1001001) = .error (.noCompletion 0b1001001) := by rfl
theorem test_decode_nibble_pack : decode (.consumer (.nibblePack 2)) = .ok (.nibblePack 2) := by rfl
theorem test_decode_digit_0 : decode (.consumer (.digitMap 0b0101)) = .ok .digit0 := by rfl
theorem test_decode_digit_1 : decode (.consumer (.digitMap 0b0110)) = .ok .digit1 := by rfl
theorem test_decode_digit_2 : decode (.consumer (.digitMap 0b1001)) = .ok .digit2 := by rfl
theorem test_decode_digit_3 : decode (.consumer (.digitMap 0b1010)) = .ok .digit3 := by rfl
theorem test_decode_digit_invalid : decode (.consumer (.digitMap 0b0111)) = .ok (.digitInvalid 7) := by rfl
theorem test_decode_temp_p1 : decode (.consumer (.tempDecode 0b0)) = .ok .tempDecodeP1 := by rfl
theorem test_decode_temp_p2 : decode (.consumer (.tempDecode 0b1)) = .ok .tempDecodeP2 := by rfl
theorem test_decode_fi_outputs : decode (.consumer (.fiOutputs 2)) = .ok (.fiOutputs 2) := by rfl
theorem test_decode_ports : decode (.consumer .pop) = .ok .pop ∧ decode .reset = .ok .reset := by decide

theorem test_table_words : decodeTableWord 8 0x0C = some (.idleSync false) ∧ decodeTableWord 8 0x45 = some (.dataRepeat false) ∧
    decodeTableWord 8 0x0A = some .digit3 ∧ decodeTableWord 8 0x80 = none ∧
    decodeTableWord 40 0x100001388 = some (.timestamp { level := true, ts := 5000 }) ∧ decodeTableWord 16 0 = none := by decide

/-- A placed word is what the next step runs (0x49 = DATA_PAIR_ERROR, V-S26's word; 0x4A; PSEL 1). -/
theorem test_placed_words :
    row (State.reset.withFetchWord 8 0x49) = some ⟨0x49, .idle, 2, true, 0, .dataError, alarm⟩ ∧
    row (State.reset.withFetchWord 8 0x4A) = some ⟨0x4A, .data, 3, false, 4, .none, quiet⟩ ∧
    (nextState (step (State.reset.withFetchWord 8 1))).map (·.fi.temp2) = some 0xFDEC#16 := by decide

/-! ## The classifier (95_test_vectors.md 2.1, 2.2) -/

theorem test_timestamp_wraps : interval 0xFFFFFF00 0x000000C8 = 456 ∧ interval 0xFFFFEC78 0 = 5000 := by decide
theorem test_timestamp_backwards : interval 5 4 = 0xFFFFFFFF ∧ interval 0 0xFFFFFFFF = 0xFFFFFFFF := by decide
theorem test_edge : edgeOfLevel true = false ∧ edgeOfLevel false = true := by decide
theorem test_classify_tc : [0, 149, 150, 375, 376, 900, 901, 3999, 4000, 6000, 6001, 0xFFFFFFFF].map (classOf Thresholds.tc) =
    [.short, .short, .oneClock, .oneClock, .twoClock, .twoClock, .long, .long, .twentyClock, .twentyClock, .long, .long] := by
  decide
theorem test_classify_smallest : [0, 1, 2, 3, 4].map (classOf ⟨1, 1, 2, 3, 3⟩) =
    [.short, .oneClock, .twoClock, .twentyClock, .long] := by decide

/-! ## The decoder's vectors (95_test_vectors.md 2.3) -/

theorem test_s2 : row (offer (base .idle 40 true 0) 15000 true) = some ⟨0x0D, .preamble, 0, false, 0, .none, quiet⟩ := by
  decide
theorem test_s3 : row (offer (base .idle 0 false 0) 15000 false) = some ⟨0x0E, .idle, 0, false, 0, .none, quiet⟩ := by
  decide
theorem test_s5d : row (offer (base .idle 0 false 0) 16001 true) = some ⟨0x10, .idle, 0, false, 0, .none, quiet⟩ := by
  decide
theorem test_s6 : row (offer (base .preamble 0 false 0) 10500 false) = some ⟨0x2A, .data, 2, false, 4, .none, quiet⟩ := by
  decide
theorem test_s7 : row (offer (base .preamble 0 false 0) 10500 true) = some ⟨0x28, .data, 2, false, 2, .none, quiet⟩ := by
  decide
theorem test_s8 : row (offer (base .preamble 0 false 0) 10250 false) = some ⟨0x26, .preamble, 0, false, 0, .none, quiet⟩ := by
  decide
theorem test_s9 : row (offer (base .preamble 0 false 0) 10250 true) =
    some ⟨0x24, .idle, 0, false, 0, .preambleError, quiet⟩ := by decide
theorem test_s10 : row (offer (base .preamble 0 false 0) 15000 true) = some ⟨0x2C, .preamble, 0, false, 0, .none, quiet⟩ := by
  decide
theorem test_s14 : row (offer (base .data 2 false 4) 10250 true) = some ⟨0x44, .data, 2, true, 4, .none, quiet⟩ := by
  decide
theorem test_s15 : row (offer (base .data 2 true 4) 10250 false) = some ⟨0x47, .data, 3, false, 0, .none, quiet⟩ := by
  decide
theorem test_s16 : row (offer (base .data 2 false 4) 10500 true) = some ⟨0x48, .data, 3, false, 4, .none, quiet⟩ := by
  decide
theorem test_s17 : row (offer (base .data 50 true 0) 10500 false) = some ⟨0x4B, .idle, 50, true, 0, .dataError, alarm⟩ := by
  decide
theorem test_s20 : row (offer (base .data 50 false 0) 15000 true) = some ⟨0x4C, .idle, 50, false, 0, .dataError, alarm⟩ := by
  decide
theorem test_s21 : row (offer (base .data 102 false (1 <<< 101)) 10500 true) =
    some ⟨0x48, .data, 103, false, 2 ^ 101, .none, quiet⟩ := by decide
theorem test_s22 : (nextState (step (offer (base .data 103 false 2) 10500 false))).map
    (fun t => (t.psm, t.bitCount.toNat, t.frame.toNat, t.outFifo)) = some (.idle, 0, 0, [2#104 ||| 1#104 <<< 103]) := by
  decide
theorem test_s23 : (nextState (step (offer (base .data 103 true (1 <<< 102)) 10250 true))).map
    (fun t => (t.psm, t.waitCount, t.outFifo)) = some (.idle, false, [1#104 <<< 102 ||| 1#104 <<< 103]) := by decide
theorem test_s24 : nextState (step (offer (full (base .data 103 false 2)) 10500 false)) =
    some (offer (full (base .data 103 false 2)) 10500 false) := by decide
theorem test_s24_then_pop : row ((nextState (step { offer (full (base .data 103 false 2)) 10500 false with
    turns := [.consumer .pop] })).getD State.reset) = some ⟨0x4A, .idle, 0, false, 0, .frameDone, quiet⟩ := by decide
theorem test_s25 : row (offer (full (base .data 103 false 0)) 10250 false) =
    some ⟨0x46, .data, 103, true, 0, .none, quiet⟩ := by decide
theorem test_s27 : (nextState (step (offer (base .reserved 0 false 0) 10250 true))).map (fun t => (t.psm, t.faults, t.prevTs)) =
    some (.reserved, [.reservedState], 10250#32) := by decide

/-! ## The interpreter (95_test_vectors.md 2.4 to 2.6), the byte view, the trace -/

theorem test_n1 : nibble (1 <<< 33 ||| 1 <<< 34) 8 = 6 ∧ nibble (1 <<< 2) 0 = 2 := by decide
theorem test_n4 : nibbles (BitVec.allOnes 104 <<< 1) = 7 :: List.replicate 25 15 := by decide
theorem test_digit_map : (List.range 16).map (fun n => (digitMap (BitVec.ofNat 4 n)).1.toNat) =
    [0, 0, 0, 0, 0, 0, 1, 0, 0, 2, 3, 0, 0, 0, 0, 0] := by decide
theorem test_digit_map_invalid : (List.range 16).filter (fun n => !(digitMap (BitVec.ofNat 4 n)).2) = [5, 6, 9, 10] := by decide
theorem test_p1 : tempWord (window 8 [5, 5, 5, 5, 5]) 8 = 0xFDEC ∧ tempErr (window 8 [5, 5, 5, 5, 5]) 8 = false := by
  decide
theorem test_p2 : tempWord (window 13 [10, 10, 10, 10, 10]) 13 = 0x01EB := by decide
theorem test_p5 : tempWord (window 8 [9, 5, 5, 5, 5]) 8 = 0xFFEC := by decide
theorem test_p6 : tempWord (window 13 [5, 5, 5, 5, 9]) 13 = 0xFDEE := by decide
theorem test_p11 : tempWord (window 8 [7, 6, 6, 6, 6]) 8 = 0xFE41 ∧ tempErr (window 8 [7, 6, 6, 6, 6]) 8 = true := by
  decide
theorem test_w9 : readingsOf (window 8 [6, 6, 6, 6, 6, 7, 10, 10, 10, 10]) =
    { temp1 := 0xFF41, temp1Err := false, temp2 := 0xFEEB, temp2Err := true } := by decide +kernel
theorem test_byte_view : (byteView (window 0 [2, 10, 10, 10])).take 2 = [0x2A, 0xAA] := by decide
theorem test_sync_expands : expandTrace 0 false Thresholds.tc 0 [.sync, .pulse .twoClock true] =
    some [.offer ⟨true, 5000⟩, .offer ⟨false, 5500⟩] := by decide
theorem test_trace_turns : (loadTrace 0 [.sync, .pop, .gap 150 true] (base .idle 0 false 0)).map (·.turns) =
    some [.offer (ev 15000 true), .decoder, .consumer .pop, .offer (ev 15150 true), .decoder] := by decide
/-- A trace that names its configuration after RESET runs under it: no turn up to its event is refused. -/
theorem test_trace_configures : (((loadTrace 0 [.reset, .cfg ⟨1, 1, 2, 3, 3⟩, .ev 7 true] (base .idle 0 false 0)).bind fun s =>
    ((nextState (step s)).bind fun s => nextState (step s)).bind fun s => nextState (step s)).map fun t =>
      (t.cfg, t.turns)) = some (⟨1, 1, 2, 3, 3⟩, [.offer (ev 7 true), .decoder]) := by decide
theorem test_pulse_needs_tc : expandTrace 0 false ⟨1, 1, 2, 3, 3⟩ 0 [.pulse .short true] = none := by decide

/-! ## Data that meet the hypotheses of the obligations, each clause at its boundary values -/

/-- An accepted event in the four states (the vectors' starts). -/
abbrev idleSync : State := offer (base .idle 0 false 0) 15000 true
/-- The queue is full and the event would complete a frame (V-S24). -/
abbrev blocked : State := offer (full (base .data 103 false 2)) 10500 false

theorem test_hyp_DecoderStepRunsDecodedOperation : accepts (ev 15000 true) idleSync = true ∧
    decode (.psm (edwFor (Evw.ofWord (ev 15000 true)) idleSync)) = .ok (.idleSync false) := ⟨by decide, by rfl⟩
theorem test_hyp_ConsumerAndResetStepsRunDecodedOperation :
    (base .idle 0 false 0).cfg.wf = true ∧ decode (.consumer .pop) = .ok .pop ∧
    decode (.consumer (.fiOutputs (base .idle 0 false 0).fi.frame)) = .ok (.fiOutputs 0) ∧ decode .reset = .ok .reset ∧
    ({ base .idle 0 false 0 with turns := [.consumer .pop] } : State).turns = .consumer .pop :: [] ∧
    ({ base .idle 0 false 0 with turns := [.interpret] } : State).turns = .interpret :: [] ∧
    ({ base .idle 0 false 0 with turns := [.reset] } : State).turns = .reset :: [] := by decide
theorem test_hyp_DecodeInvertsEncode : (Instr.preError 7 true true).wf = true ∧ (Instr.digitInvalid 15).wf = true ∧
    (Instr.completeToggle true).wf = true := by decide
theorem test_hyp_EncodeInvertsDecode : decode (.psm 0x7F) = .ok (.reservedState 7 true true) := by rfl
theorem test_hyp_TimestampResultAndUnconditionalUpdate : accepts (ev 15000 true) idleSync = true ∧ goesOn idleSync = true := by
  decide
theorem test_hyp_ClassifyResult : (base .idle 0 false 0).cfg.wf = true := by decide
theorem test_hyp_EveryClassIsReached : Thresholds.tc.wf = true := by decide
theorem test_hyp_GapBelowTwentyClockIsLong : classOf Thresholds.tc 4000 = .twentyClock ∧
    classOf ⟨150, 375, 900, 800, 6000⟩ 901 = .twentyClock ∧ Thresholds.tc.wf = true ∧
    Thresholds.tc.twoMax.toNat < (901 : Ts).toNat ∧ (901 : Ts).toNat < Thresholds.tc.twentyMin.toNat ∧
    Thresholds.tc.twoMax.toNat < (3999 : Ts).toNat ∧ (3999 : Ts).toNat < Thresholds.tc.twentyMin.toNat := by decide
theorem test_hyp_PreFirstPairResult : (base .preamble 0 false 0).bitCount.toNat ≤ 101 ∧
    (base .preamble 101 false 0).bitCount.toNat ≤ 101 := by decide
theorem test_hyp_DataBitWriteResults : 1 ≤ (base .data 1 false 0).bitCount.toNat ∧
    (base .data 1 false 0).bitCount.toNat ≤ 102 ∧ 1 ≤ (base .data 102 true 0).bitCount.toNat ∧
    (base .data 102 true 0).bitCount.toNat ≤ 102 := by decide
theorem test_hyp_CompletingBitWriteResults : (base .data 103 true 0).bitCount.toNat = 103 ∧
    fifoFull (base .data 103 true 0) = false := by decide
theorem test_hyp_CompletionSubStepResults : (base .data 103 false 0).bitCount.toNat < 104 ∧
    104 ≤ (base .data 104 false 0).bitCount.toNat ∧ fifoFull (base .data 104 false 0) = false ∧
    fifoFull (full (base .data 104 false 0)) = true := by decide
theorem test_hyp_CompletingWriteHoldsOnFullQueue : (full (base .data 103 false 0)).bitCount.toNat = 103 ∧
    fifoFull (full (base .data 103 false 0)) = true := by decide
theorem test_hyp_WriteOutsideBufferFaults : (base .data 0 false 0).bitCount.toNat = 0 ∧
    104 ≤ (base .data 104 false 0).bitCount.toNat ∧ (base .preamble 102 false 0).bitCount.toNat = 102 ∧
    103 ≤ (base .preamble 103 false 0).bitCount.toNat ∧ (base .preamble 103 false 0).bitCount.toNat ≤ 126 ∧
    103 ≤ (base .preamble 126 false 0).bitCount.toNat ∧ (base .preamble 126 false 0).bitCount.toNat ≤ 126 ∧
    (base .preamble 127 false 0).bitCount.toNat = 127 := by decide

theorem test_hyp_IdleStep_sync : accepts (ev 15000 true) idleSync = true ∧ idleSync.psm = .idle ∧
    classFor (Evw.ofWord (ev 15000 true)) idleSync = .twentyClock ∧ (Evw.ofWord (ev 15000 true)).level = true := by decide
theorem test_hyp_IdleStep_stay : accepts (ev 15000 false) (offer (base .idle 0 false 0) 15000 false) = true ∧
    (Evw.ofWord (ev 15000 false)).level = false := by decide

/-- An event in Preamble with the counters 0. -/
def inPreamble (ts : Nat) (level : Bool) : State := offer (base .preamble 0 false 0) ts level

/-- An accepted event in Preamble of this class and level. -/
def preambleHyp (ts : Nat) (level : Bool) (k : PulseClass) : Bool :=
  accepts (ev ts level) (inPreamble ts level) && ((inPreamble ts level).psm == .preamble) &&
  ((inPreamble ts level).bitCount == 0) && !(inPreamble ts level).waitCount &&
  (classFor (Evw.ofWord (ev ts level)) (inPreamble ts level) == k) && ((Evw.ofWord (ev ts level)).level == level)

theorem test_hyp_PreambleStep_quiet : preambleHyp 10900 true .twoClock = true ∧ preambleHyp 10376 false .twoClock = true ∧
    preambleHyp 10150 false .oneClock = true ∧ preambleHyp 14000 true .twentyClock = true := by decide
theorem test_hyp_PreambleStep_error : preambleHyp 10149 true .short = true ∧ preambleHyp 10901 true .long = true ∧
    preambleHyp 10375 true .oneClock = true ∧ preambleHyp 16000 false .twentyClock = true := by decide

/-- An event in Data. -/
def inData (bc : BitVec 7) (wait : Bool) (ts : Nat) : State := offer (base .data bc wait 4) ts true

/-- At the last slot the invariants hold. -/
theorem inData_invariants : Invariants (inData 103 true 10250) := by
  refine ⟨by decide, by decide, by decide, by decide, by decide, ?_, by decide⟩
  intro f hf
  cases hf

/-- An accepted event in Data of this class. -/
def dataHyp (bc : BitVec 7) (wait : Bool) (ts : Nat) (k : PulseClass) : Bool :=
  accepts (ev ts true) (inData bc wait ts) && ((inData bc wait ts).psm == .data) &&
  ((inData bc wait ts).waitCount == wait) && (classFor (Evw.ofWord (ev ts true)) (inData bc wait ts) == k)

theorem test_hyp_DataStepWithoutWrite : dataHyp 2 false 10150 .oneClock = true ∧ dataHyp 103 true 10500 .twoClock = true ∧
    dataHyp 50 false 10100 .short = true ∧ dataHyp 50 false 15000 .twentyClock = true ∧
    dataHyp 127 true 12000 .long = true := by decide
theorem test_hyp_DataStepWithWrite : dataHyp 1 true 10250 .oneClock = true ∧ dataHyp 102 false 10500 .twoClock = true ∧
    dataHyp 103 true 10250 .oneClock = true ∧ dataHyp 103 false 10500 .twoClock = true := by decide
theorem test_hyp_ReservedStateStep : accepts (ev 10250 true) (offer (base .reserved 0 false 0) 10250 true) = true ∧
    (base .reserved 0 false 0).psm = .reserved := by decide
theorem test_hyp_HeldStepChangesNothing : decoderMoves blocked = true ∧ blocked.cfg.wf = true ∧ blocked.faults = [] ∧
    blocked.events = ev 10500 false :: [] ∧ held (Evw.ofWord (ev 10500 false)) blocked = true ∧
    decoderMoves { blocked with turns := [.decoder] } = true := by decide
theorem test_hyp_PopLiftsTheHold : queueBounded blocked ∧ blocked.params.wf = true ∧ blocked.cfg.wf = true ∧
    blocked.faults = [] ∧ blocked.events = ev 10500 false :: [] ∧ held (Evw.ofWord (ev 10500 false)) blocked = true ∧
    ({ blocked with turns := [.consumer .pop, .decoder] } : State).turns = .consumer .pop :: .decoder :: [] := by
  refine ⟨fun d hd => ?_, by decide, by decide, by decide, by decide, by decide, by decide⟩
  obtain rfl : 1 = d := by simpa [offer, full, base, State.launch] using hd
  decide
/-- Turns are left, and none of them could end the hold. -/
abbrev hungWithTurns : State := { blocked with turns := [.decoder, .interpret, .offer (ev 11000 true), .cfg Thresholds.tc] }
theorem test_hyp_HungMachineNeverMoves : hung blocked = true ∧ blocked.cfg.wf = true ∧ blocked.faults = [] ∧
    blocked.turns = [] ∧ hung hungWithTurns = true ∧ hungWithTurns.cfg.wf = true ∧ hungWithTurns.faults = [] := by decide
theorem test_hung_needs_no_lift : hung { blocked with turns := [.decoder, .consumer .pop] } = false ∧
    hung { blocked with turns := [.interpret, .reset] } = false ∧ hung idleSync = false := by decide
theorem test_hyp_OneReportPerStep : accepts (ev 10500 true) (inData 103 false 10500) = true ∧
    (row (inData 103 false 10500)).map (·.status) = some .frameDone ∧
    (row (inData 102 false 10500)).map (·.status) = some .none := by decide
theorem test_hyp_ErrorChangesOnlyState : accepts (ev 10149 true) (inPreamble 10149 true) = true ∧
    (row (inPreamble 10149 true)).map (·.status) = some .preambleError ∧
    accepts (ev 12000 true) (inData 127 true 12000) = true ∧
    (row (inData 127 true 12000)).map (·.status) = some .dataError := by decide
theorem test_hyp_StrobesOfAStep : accepts (ev 12000 true) (inData 50 true 12000) = true ∧
    goesOn (inData 50 true 12000) = true := by decide
theorem test_hyp_NoOperationStopsTheMachine : Invariants (inData 103 true 10250) ∧ (inData 103 true 10250).cfg.wf = true ∧
    ∀ c rest, (inData 103 true 10250).turns ≠ .cfg c :: rest := ⟨inData_invariants, by decide, fun _ _ h => nomatch h⟩
theorem test_hyp_FirstDataWriteRewritesSlotTwo : (base .preamble 0 false 0).bitCount = 0 ∧
    (nextState (exec (.preFirstPair true false) (base .preamble 0 false 0))).isSome = true := by decide
theorem test_hyp_DecoderWaitsForAnEvent : decoderMoves (base .data 2 false 0) = true ∧ (base .data 2 false 0).cfg.wf = true ∧
    (base .data 2 false 0).events = [] := by decide

theorem test_hyp_PopResult : (full (base .idle 0 false 0)).outFifo = 2 :: [] ∧ (base .idle 0 false 0).outFifo = [] := by decide
theorem test_hyp_ConsumerNeverChangesTheDecoder :
    goesOn { full (base .data 2 false 0) with turns := [.consumer .pop] } = true ∧
    goesOn { base .data 2 false 0 with turns := [.consumer (.digitMap 7)] } = true ∧
    goesOn { base .data 2 false 0 with turns := [.interpret] } = true := by decide
theorem test_hyp_FramesLeaveInOrder : goesOn (inData 103 true 10250) = true ∧
    (inData 103 true 10250).turns.head? ≠ some .reset := by decide
theorem test_hyp_EventsHandledInOrder : goesOn idleSync = true ∧ goesOn blocked = true ∧ goesOn hungWithTurns = true ∧
    goesOn { idleSync with turns := [.offer (ev 15250 false)] } = true := by decide
theorem test_hyp_QueueStaysWithinItsDepth : queueBounded (inData 103 true 10250) ∧ goesOn (inData 103 true 10250) = true :=
  ⟨fun _ _ => Nat.zero_le _, by decide⟩

/-- The host offers a configuration while the events are offered, and the turns follow. -/
def configuring (running : Bool) (c : Thresholds) (events : List EvWord) (turns : List Turn) : State :=
  { base .idle 0 false 0 with running := running, events := events, turns := .cfg c :: turns }

/-- Clause 1, in a run; and the accepted changes: before the first reset, and after the end of the run. -/
theorem test_hyp_ConfigurationIsConstantInARun_next :
    (configuring true Thresholds.tc [ev 15000 true] []).running = true ∧
    runOver (configuring true Thresholds.tc [ev 15000 true] []) = false ∧
    goesOn (configuring true Thresholds.tc [ev 15000 true] []) = true ∧
    goesOn (configuring false ⟨1, 1, 2, 3, 3⟩ [ev 15000 true] []) = true ∧
    runOver (configuring true ⟨1, 1, 2, 3, 3⟩ [] [.reset, .offer (ev 15000 true)]) = true ∧
    goesOn (configuring true ⟨1, 1, 2, 3, 3⟩ [] [.reset, .offer (ev 15000 true)]) = true := by decide
/-- RESET, a change, and only then the first event: the change is refused. -/
theorem test_change_after_reset_is_refused : ((nextState (step { base .idle 0 false 0 with
    running := false, turns := [.reset, .cfg ⟨1, 1, 2, 3, 3⟩, .offer (ev 15000 true)] })).map fun t =>
      (t.running, goesOn t)) = some (true, false) := by decide
/-- The refused changes: in a run with an event at hand, with one to come, with a frame queued; an ill-formed one. -/
theorem test_hyp_ConfigurationIsConstantInARun_refused :
    goesOn (configuring true ⟨1, 1, 2, 3, 3⟩ [ev 15000 true] []) = false ∧
    runOver (configuring true ⟨1, 1, 2, 3, 3⟩ [ev 15000 true] []) = false ∧
    goesOn (configuring true ⟨1, 1, 2, 3, 3⟩ [] [.offer (ev 15000 true), .reset]) = false ∧
    goesOn (full (configuring true ⟨1, 1, 2, 3, 3⟩ [] [.reset])) = false ∧
    (Thresholds.mk 1 1 2 3 3).wf = true ∧ (Thresholds.mk 1 1 2 3 3) ≠ Thresholds.tc ∧
    goesOn (configuring false ⟨0, 1, 2, 3, 3⟩ [] []) = false ∧ (Thresholds.mk 0 1 2 3 3).wf = false ∧
    goesOn { idleSync with cfg := ⟨0, 1, 2, 3, 3⟩ } = false := by decide

/-- A model fault has been raised and an event is offered. -/
def faulty : State := { idleSync with faults := [.reservedState] }

theorem test_hyp_FaultStopsTheDecoder_goes_on : faulty.faults ≠ [] ∧ goesOn { faulty with turns := [.decoder] } = true ∧
    goesOn { faulty with turns := [.offer (ev 16000 true)] } = true ∧
    goesOn { faulty with turns := [.consumer .pop] } = true := by decide
theorem test_hyp_FaultStopsTheDecoder_stops : faulty.faults ≠ [] ∧ faulty.cfg.wf = true ∧ faulty.turns = [] ∧
    faulty.events ≠ [] ∧ goesOn faulty = false := by decide

theorem test_hyp_NibblePackIsABijection : (List.replicate 26 (10 : Nib)).length = 26 ∧ 0 < 26 ∧ 25 < 26 ∧ 3 < 4 := by decide
theorem test_hyp_DigitOperationResults : (7 : Nib) ≠ 5 ∧ (7 : Nib) ≠ 6 ∧ (7 : Nib) ≠ 9 ∧ (7 : Nib) ≠ 10 := by decide
theorem test_hyp_FiReadsOnlyItsWindows : (0 : Frame) ≠ 1 <<< 31 ∧
    (List.range 104).all (fun i => i == 31 || (0 : Frame).getLsbD i == (1#104 <<< 31).getLsbD i) = true ∧
    (List.range 104).all (fun i => i == 52 || (0 : Frame).getLsbD i == (1#104 <<< 52).getLsbD i) = true ∧
    (List.range 104).all (fun i => i == 72 || (0 : Frame).getLsbD i == (1#104 <<< 72).getLsbD i) = true := by decide +kernel
theorem test_hyp_ReadingRange : reading (window 8 [5, 5, 5, 5, 5]) 8 = -532 ∧
    reading (window 13 [10, 10, 10, 10, 10]) 13 = 491 ∧ reading (window 8 [0, 0, 0, 0, 0]) 8 = -532 ∧
    window 8 [0, 0, 0, 0, 0] ≠ window 8 [5, 5, 5, 5, 5] := by decide
theorem test_hyp_EveryStepKeepsTheInvariants : Invariants (inData 103 true 10250) ∧ goesOn (inData 103 true 10250) = true :=
  ⟨inData_invariants, by decide⟩

/-- Two states that differ in slot 103 only, which has not been written (slots 0..102 are live). -/
theorem test_hyp_StaleSlotsNeverReachAnOutput : Invariants (inData 103 true 10250) ∧
    sameButStale (inData 103 true 10250) { inData 103 true 10250 with frame := 4 ||| 1 <<< 103 } ∧
    goesOn (inData 103 true 10250) = true := by
  refine ⟨inData_invariants, ⟨rfl, fun i hi => ?_⟩, by decide⟩
  have h : ∀ i, i < 103 → readSlot (4 ||| 1 <<< 103) i = readSlot 4 i := by decide
  exact h i hi.2

/-- The state of P3 (95_test_vectors.md section 3) with the events of R139 for its frame. -/
def delivering : State :=
  { base .idle 0 false 0 with
    events := frameEvents Thresholds.tc 10000 (frameOfNibbles (2 :: List.replicate 25 10)) }

theorem test_hyp_EveryPatternIsDelivered : delivering.psm = .idle ∧ delivering.faults = [] ∧ delivering.cfg.wf = true ∧
    delivering.turns = [] ∧ fifoFull delivering = false ∧
    (frameOfNibbles (2 :: List.replicate 25 10)).getLsbD 0 = false ∧
    delivering.events = frameEvents delivering.cfg delivering.prevTs (frameOfNibbles (2 :: List.replicate 25 10)) :=
  ⟨by decide, by decide, by decide, by decide, by decide, by decide, rfl⟩

theorem test_hyp_EdgeSourceAddsItsEvent :
    ({ idleSync with turns := [.offer (ev 15250 false)] } : State).turns = .offer (ev 15250 false) :: [] ∧
    idleSync.cfg.wf = true := by decide
theorem test_hyp_EndedRunStaysEnded : runOver (base .data 7 true 0) = true ∧ goesOn (base .data 7 true 0) = true ∧
    goesOn { base .data 7 true 0 with turns := [.consumer .pop, .reset, .offer (ev 15000 true)] } = true ∧
    runOver { base .data 7 true 0 with turns := [.consumer .pop, .reset, .offer (ev 15000 true)] } = true ∧
    runOver (full (base .data 7 true 0)) = false := by decide

/-- The host waits a turn before it pops. -/
abbrev relieved : State := { blocked with turns := [.decoder, .consumer .pop] }
theorem test_hyp_HoldEndsUnlessHung : queueBounded relieved ∧ relieved.params.wf = true ∧ relieved.cfg.wf = true ∧
    relieved.faults = [] ∧ isHeld relieved = true ∧ hung relieved = false ∧
    ∀ c, Turn.cfg c ∈ relieved.turns → c = relieved.cfg := by
  refine ⟨fun d hd => ?_, by decide, by decide, by decide, by decide, by decide, fun c hc => ?_⟩
  · obtain rfl : 1 = d := by simpa [offer, full, base, State.launch] using hd
    decide
  · simp at hc

end Sys2Proof.Tests
end

section
/-! PROOFS. The step on the turn of the edge source, of the consumer, of the FI and of the host's reset. -/

namespace Sys2Proof.Machine

/-! One step takes the first turn left. -/

theorem step_of_turn {s : State} {t : Turn} {rest : List Turn} (ht : s.turns = t :: rest) :
    step s = takeTurn t { s with turns := rest } := by
  simp only [step, turnStep, ht]

/-- The guard of 10_state.md R31 lets a launch with a well-formed `CFG` through. -/
theorem guardLaunch_of_wf {s : State} (hwf : s.cfg.wf = true) (o : Outcome State) : guardLaunch s o = o :=
  if_pos hwf

/-! The step on each of these turns. Only the reset needs no well-formed `CFG` (assumption 12). -/

theorem step_of_offer {s : State} {w : EvWord} {rest : List Turn} (ht : s.turns = .offer w :: rest)
    (hwf : s.cfg.wf = true) : step s = .next (offerEvent w { s with turns := rest }) := by
  rw [step_of_turn ht]
  exact guardLaunch_of_wf hwf _

theorem step_of_consumer {s : State} {w : ConsumerWord} {rest : List Turn} (ht : s.turns = .consumer w :: rest)
    (hwf : s.cfg.wf = true) : step s = exec (decodeConsumer w) { s with turns := rest } := by
  rw [step_of_turn ht]
  exact guardLaunch_of_wf hwf _

/-- The operand of FI_OUTPUTS is the frame kept at the FI's input (assumption 15). -/
theorem step_of_interpret {s : State} {rest : List Turn} (ht : s.turns = .interpret :: rest)
    (hwf : s.cfg.wf = true) : step s = exec (.fiOutputs s.fi.frame) { s with turns := rest } := by
  rw [step_of_turn ht]
  exact guardLaunch_of_wf hwf _

theorem step_of_reset {s : State} {rest : List Turn} (ht : s.turns = .reset :: rest) :
    step s = exec .reset { s with turns := rest } := by
  rw [step_of_turn ht, takeTurn]

/-! The decoder accepts every word of the consumer, and RESET's. -/

theorem decode_consumer_eq_ok (w : ConsumerWord) (i : Instr) :
    decode (.consumer w) = .ok i ↔ decodeConsumer w = i := by
  simp only [decode, Except.ok.injEq]

theorem decode_reset_eq_ok (i : Instr) : decode .reset = .ok i ↔ Instr.reset = i := by
  simp only [decode, Except.ok.injEq]

/-- Settles O2: on each of the three turns the step is `exec` of an operation, and that operation is the one decoded. -/
theorem consumerAndResetStepsRunDecodedOperation : Obligations.ConsumerAndResetStepsRunDecodedOperation := by
  intro s rest i
  refine ⟨fun w ht hwf hdec => ?consumer, fun ht hwf hdec => ?interpret, fun ht hdec => ?reset⟩
  case consumer =>
    obtain rfl := (decode_consumer_eq_ok w i).1 hdec
    exact step_of_consumer ht hwf
  case interpret =>
    have hop : Instr.fiOutputs s.fi.frame = i := (decode_consumer_eq_ok (.fiOutputs s.fi.frame) i).1 hdec
    rw [step_of_interpret ht hwf, hop]
  case reset =>
    obtain rfl := (decode_reset_eq_ok i).1 hdec
    exact step_of_reset ht

/-- Settles O58: the step on the edge source's turn is `offerEvent` on the state with the turn taken. -/
theorem edgeSourceAddsItsEvent : Obligations.EdgeSourceAddsItsEvent := by
  intro s w rest ht hwf
  rw [step_of_offer ht hwf, offerEvent]

end Sys2Proof.Machine
end

section
/-! PROOFS. The step on the turns of the host's configuration and of the decoder, and what the consumer's operations and the
operations of the PSM can do to the queue. -/

namespace Sys2Proof.Machine

/-! The turns that the laws before this file leave out. -/

theorem step_of_cfg {s : State} {c : Thresholds} {rest : List Turn} (ht : s.turns = .cfg c :: rest) :
    step s = configure c { s with turns := rest } := by
  rw [step_of_turn ht, takeTurn]

/-- Without a fault the decoder moves in the same way on a turn of its own and where no turn is left. -/
theorem step_of_decoderMoves {s : State} (hm : decoderMoves s = true) (hf : s.faults = []) :
    step s = guardLaunch s (decoderTurn { s with turns := s.turns.tail }) := by
  cases ht : s.turns with
  | nil =>
    have hs : { s with turns := ([] : List Turn).tail } = s := by rw [List.tail_nil, ← ht]
    rw [hs, step, turnStep, ht]
    simp only [lastTurn, hf, List.isEmpty_nil, Bool.not_true, Bool.false_and, Bool.false_eq_true, if_false]
  | cons t rest =>
    cases t <;> simp only [decoderMoves, ht, Bool.false_eq_true] at hm
    exact step_of_turn ht

/-- A launch with an ill-formed `CFG` has no step but the host's (10_state.md R31, 60_exceptions.md R208 a; assumption 12). -/
theorem step_of_not_wf {s : State} (hwf : s.cfg.wf = false) (hc : ∀ c rest, s.turns ≠ .cfg c :: rest)
    (hr : ∀ rest, s.turns ≠ .reset :: rest) : step s = .refused .cfgIllFormed := by
  have guarded : ∀ (u : State) (o : Outcome State), u.cfg = s.cfg → guardLaunch u o = .refused .cfgIllFormed :=
    fun u o hu => if_neg (by simp [hu, hwf])
  cases ht : s.turns with
  | nil =>
    rw [step, turnStep, ht]
    simp only [lastTurn, guarded s _ rfl, ite_self]
  | cons t rest =>
    rw [step_of_turn ht]
    cases t with
    | decoder => exact guarded _ _ rfl
    | offer w => exact guarded _ _ rfl
    | consumer w => exact guarded _ _ rfl
    | interpret => exact guarded _ _ rfl
    | reset => exact absurd ht (hr rest)
    | cfg c => exact absurd ht (hc c rest)

/-! The queue under the consumer and under the decoder. -/

/-- A consumer's operation leaves an end of the queue, and changes nothing else but the frames popped and the FI's ports
(20_memory.md R53, R57). -/
theorem exec_consumer_frame {w : ConsumerWord} {s t : State} (h : exec (decodeConsumer w) s = .next t) :
    ∃ q p fi, q <:+ s.outFifo ∧ t = { s with outFifo := q, popped := p, fi := fi } := by
  rcases exec_consumer_next w s t h with rfl | ht
  · cases hq : s.outFifo with
    | nil => exact ⟨[], s.popped, s.fi, List.suffix_rfl, by rw [popFrame_nil s hq, ← hq]⟩
    | cons f rest => exact ⟨rest, _, _, List.suffix_cons f rest, popFrame_cons s f rest hq⟩
  · exact ⟨s.outFifo, s.popped, t.fi, List.suffix_rfl, ht⟩

theorem completeFrame_outFifo (s : State) :
    (completeFrame s).outFifo = s.outFifo ∨
      fifoFull s = false ∧ (completeFrame s).outFifo = s.outFifo ++ [frameContent s.frame] := by
  rcases completeFrame_cases s with ⟨-, h⟩ | ⟨-, -, h⟩ | ⟨-, hf, h⟩
  · exact .inl (by rw [h])
  · exact .inl (by rw [h])
  · exact .inr ⟨hf, by rw [h]⟩

/-- Only COMPLETE pushes, one frame, and only where the queue has room for it (20_memory.md R56, R58). -/
theorem exec_psm_outFifo {w : Edw} {s t : State} (h : exec (decodeEdw w) s = .next t) :
    t.outFifo = s.outFifo ∨ fifoFull s = false ∧ ∃ f, t.outFifo = s.outFifo ++ [f] := by
  rcases exec_psm_cases w s t h with
    rfl | rfl | ⟨e, wt, -, hp⟩ | rfl | rfl | rfl | rfl | ⟨flip, wt, u, -, -, -, hu, rfl⟩
  any_goals exact .inl rfl
  · obtain ⟨-, -, rfl⟩ := (execPreFirstPair_eq_next e wt s t).1 hp
    exact .inl rfl
  · obtain ⟨-, -, rfl⟩ := (appendBit_eq_next flip s u).1 hu
    exact (completeFrame_outFifo _).imp_right fun ⟨hf, hq⟩ => ⟨hf, _, hq⟩

/-! What every step keeps. -/

/-- What holds after every reset, does not look at the plans or at `CFG`, and is kept by the consumer's operations and by the
decoder step, is kept by every step. -/
theorem step_keeps {P : State → Prop} (hreset : ∀ u, P (resetCore u))
    (hplans : ∀ u turns events cfg, P u → P { u with turns := turns, events := events, cfg := cfg })
    (hconsumer : ∀ w u v, P u → exec (decodeConsumer w) u = .next v → P v)
    (hdecoder : ∀ ev u v, P u → decoderStep ev u = .next v → P v)
    {s t : State} (hs : P s) (h : step s = .next t) : P t := by
  rcases step_cases s t h with ⟨rest, -, rfl⟩ | ⟨c, rest, -, -, -, rfl⟩ | ⟨w, rest, -, -, rfl⟩ |
    ⟨w, rest, -, -, hx⟩ | ⟨rest, -, -, hx⟩ | ⟨-, -, ⟨rfl, -⟩ | ⟨w, rest, -, -, hx⟩⟩
  · exact hreset _
  · exact hplans s rest s.events c hs
  · exact hplans s rest (s.events ++ [w]) s.cfg hs
  · exact hconsumer w _ t (hplans s rest s.events s.cfg hs) hx
  · exact hconsumer (.fiOutputs s.fi.frame) _ t (hplans s rest s.events s.cfg hs) hx
  · exact hplans s s.turns.tail s.events s.cfg hs
  · exact hdecoder (Evw.ofWord w) _ t (hplans s s.turns.tail rest s.cfg hs) hx

/-! The depth of the queue. -/

/-- A push is within the depth where the queue had room. -/
theorem queueBounded_of_push {s t : State} {f : Frame} (hs : fifoFull s = false) (hp : t.params = s.params)
    (hq : t.outFifo = s.outFifo ++ [f]) : queueBounded t := by
  intro d hd
  have hroom : ¬ d ≤ s.outFifo.length := fun hle =>
    Bool.false_ne_true (hs.symm.trans ((fifoFull_eq_true s).2 ⟨d, hp ▸ hd, hle⟩))
  simp only [hq, List.length_append, List.length_singleton]
  omega

theorem decoderStep_keeps_queueBounded {ev : Evw} {s t : State} (hs : queueBounded s)
    (h : decoderStep ev s = .next t) : queueBounded t := by
  obtain ⟨u, hu, rfl⟩ := (decoderStep_eq_next ev s t).1 h
  have hp : u.params = s.params := (exec_psm_frame _ _ _ hu).params
  rcases exec_psm_outFifo hu with hq | ⟨hroom, f, hq⟩
  · intro d hd
    rw [leaveStep_outFifo, hq]
    exact hs d (hp ▸ hd)
  · exact queueBounded_of_push (s := s) hroom hp hq

theorem exec_consumer_keeps_queueBounded {w : ConsumerWord} {s t : State} (hs : queueBounded s)
    (h : exec (decodeConsumer w) s = .next t) : queueBounded t := by
  obtain ⟨q, p, fi, hq, rfl⟩ := exec_consumer_frame h
  exact fun d hd => hq.length_le.trans (hs d hd)

/-- Settles O40: a turn of the consumer or a reset can only shorten the queue, the decoder pushes only where there is room, and no
other turn touches it. -/
theorem queueStaysWithinItsDepth : Obligations.QueueStaysWithinItsDepth := fun _ _ =>
  step_keeps (fun _ _ _ => Nat.zero_le _) (fun _ _ _ _ hu => hu) (fun _ _ _ => exec_consumer_keeps_queueBounded)
    (fun _ _ _ => decoderStep_keeps_queueBounded)

end Sys2Proof.Machine
end

section
/-! PROOFS. The configuration of a run (10_state.md R32, 60_exceptions.md R208). -/

namespace Sys2Proof.Machine

/-- The setting of `CFG` is no offer and no reset, so it plays no part in whether the run is over. -/
theorem runOver_of_cfg {s : State} {c : Thresholds} {rest : List Turn} (ht : s.turns = .cfg c :: rest) :
    runOver { s with turns := rest } = runOver s := by
  have hoffers : offersLeft s.turns = offersLeft rest := by rw [ht]; rfl
  rw [runOver, runOver, hoffers]
  rfl

theorem configure_of_not_wf {c : Thresholds} (s : State) (hwf : c.wf = false) :
    configure c s = .refused .cfgIllFormed := by
  rw [configure, hwf, Bool.not_false, if_pos rfl]

theorem configure_of_changed {c : Thresholds} {s : State} (hwf : c.wf = true) (hr : s.running = true)
    (ho : runOver s = false) (hc : c ≠ s.cfg) : configure c s = .refused .cfgChanged := by
  simp [configure, hwf, hr, ho, hc]

/-! A step in a run. -/

theorem decoderStep_running {ev : Evw} {s t : State} (h : decoderStep ev s = .next t) : t.running = true := by
  obtain ⟨u, -, rfl⟩ := (decoderStep_eq_next ev s t).1 h
  exact leaveStep_running _ _ _

theorem decoderStep_cfg {ev : Evw} {s t : State} (h : decoderStep ev s = .next t) : t.cfg = s.cfg := by
  obtain ⟨u, hu, rfl⟩ := (decoderStep_eq_next ev s t).1 h
  exact (exec_psm_frame _ _ _ hu).cfg

theorem exec_consumer_running {w : ConsumerWord} {s t : State} (h : exec (decodeConsumer w) s = .next t) :
    t.running = s.running := by
  obtain ⟨q, p, fi, -, rfl⟩ := exec_consumer_frame h
  rfl

theorem exec_consumer_cfg {w : ConsumerWord} {s t : State} (h : exec (decodeConsumer w) s = .next t) :
    t.cfg = s.cfg := by
  obtain ⟨q, p, fi, -, rfl⟩ := exec_consumer_frame h
  rfl

/-- Once a reset has been applied, no step takes that back. -/
theorem step_keeps_running {s t : State} (hs : s.running = true) (h : step s = .next t) : t.running = true :=
  step_keeps (P := fun u => u.running = true) resetCore_running (fun _ _ _ _ hu => hu)
    (fun _ _ _ hu hx => (exec_consumer_running hx).trans hu) (fun _ _ _ _ hx => decoderStep_running hx) hs h

/-- Only the host's setting changes `CFG`, and in a run that is not over it answers a next state for the same `CFG` only. -/
theorem step_keeps_cfg {s t : State} (hr : s.running = true) (ho : runOver s = false) (h : step s = .next t) :
    t.cfg = s.cfg := by
  rcases step_cases s t h with ⟨rest, -, rfl⟩ | ⟨c, rest, ht, -, hsame, rfl⟩ | ⟨w, rest, -, -, rfl⟩ |
    ⟨w, rest, -, -, hx⟩ | ⟨rest, -, -, hx⟩ | ⟨-, -, ⟨rfl, -⟩ | ⟨w, rest, -, -, hx⟩⟩
  · rfl
  · exact hsame hr ((runOver_of_cfg ht).trans ho)
  · rfl
  · exact (exec_consumer_cfg hx :)
  · exact (exec_consumer_cfg (w := .fiOutputs s.fi.frame) hx :)
  · rfl
  · exact (decoderStep_cfg hx :)

/-- Settles O41: the steps of a run by `step_keeps_running` and `step_keeps_cfg`, the host's setting by the branches of `configure`,
an ill-formed launch by `step_of_not_wf`. -/
theorem configurationIsConstantInARun : Obligations.ConfigurationIsConstantInARun := by
  refine ⟨fun s t hr h => ⟨step_keeps_running hr h, fun ho => step_keeps_cfg hr ho h⟩,
    fun s c rest ht => ?_, fun s => step_of_not_wf⟩
  rw [step_of_cfg ht]
  refine ⟨configure_of_not_wf _, fun hwf hr ho hc => ?_, fun hwf hopen => ?_⟩
  · exact configure_of_changed hwf hr ((runOver_of_cfg ht).trans ho) hc
  · refine (configure_eq_next c _ _).2 ⟨hwf, fun hr ho => ?_, rfl⟩
    rw [runOver_of_cfg ht] at ho
    rcases hopen with hr' | ho'
    · exact absurd (hr'.symm.trans hr) Bool.false_ne_true
    · exact absurd (ho.symm.trans ho') Bool.false_ne_true

end Sys2Proof.Machine
end

section
/-! PROOFS. The values right after reset, and the operations of the PSM by the state that selects them (30_encoding.md R75), with the
bit write of the Data state in one function. -/

namespace Sys2Proof.Machine

/-! Right after reset. -/

/-- Settles O44: each value is a field of the launched state, and `State.reset` is the launch with `TC`. -/
theorem resetStateValues : Obligations.ResetStateValues := by
  refine ⟨fun c p v => ⟨rfl, rfl, rfl, rfl, fun i => ?_, rfl, rfl, rfl⟩, ?_⟩
  · simp [readSlot, State.launch]
  · exact ⟨Thresholds.tc, { fifoDepth := none, hasDebug := true }, 0, by decide, rfl, rfl⟩

/-- The reset values satisfy the invariants: an empty frame buffer, Idle, zero counters, an empty queue, no fault. -/
theorem invariants_of_resetValues {s : State} (hframe : s.frame = 0) (hpsm : s.psm = .idle) (hcount : s.bitCount = 0)
    (hqueue : s.outFifo = []) (hfaults : s.faults = []) : Invariants s := by
  simp [Invariants, invSlotZero, invNotReserved, invPreamble, invData, invBitCount, invQueue, invNoFault,
    hframe, hpsm, hcount, hqueue, hfaults]

theorem invariants_launch (c : Thresholds) (p : Params) (v : Ts) : Invariants (State.launch c p v) :=
  invariants_of_resetValues rfl rfl rfl rfl rfl

theorem invariants_resetCore (s : State) : Invariants (resetCore s) :=
  invariants_of_resetValues rfl rfl rfl rfl rfl

/-- Settles O54: `State.reset` is a launch, and a launch has the reset values. -/
theorem invariantsHoldAtReset : Obligations.InvariantsHoldAtReset :=
  ⟨invariants_launch _ _ _, fun c p v => ⟨invariants_launch c p v, fun _ _ => Nat.zero_le _⟩⟩

/-! Which operation can run in which state. -/

/-- The state whose rows of R75 hold the operation. -/
inductive RowOf : Psm → Instr → Prop
  | idleSync (wait : Bool) : RowOf .idle (.idleSync wait)
  | idleStay (cls : BitVec 3) (edge wait : Bool) : RowOf .idle (.idleStay cls edge wait)
  | preFirstPair (edge wait : Bool) : RowOf .preamble (.preFirstPair edge wait)
  | preHalf (wait : Bool) : RowOf .preamble (.preHalf wait)
  | preResync (wait : Bool) : RowOf .preamble (.preResync wait)
  | preError (cls : BitVec 3) (edge wait : Bool) : RowOf .preamble (.preError cls edge wait)
  | dataHalf (edge : Bool) : RowOf .data (.dataHalf edge)
  | dataRepeat (edge : Bool) : RowOf .data (.dataRepeat edge)
  | dataToggle (edge : Bool) : RowOf .data (.dataToggle edge)
  | dataPairError (edge : Bool) : RowOf .data (.dataPairError edge)
  | dataClassError (cls : BitVec 3) (edge wait : Bool) : RowOf .data (.dataClassError cls edge wait)
  | reservedState (cls : BitVec 3) (edge wait : Bool) : RowOf .reserved (.reservedState cls edge wait)

/-- The operation selected for an event is one of the state's own rows. -/
theorem selected_rowOf (ev : Evw) (s : State) : RowOf s.psm (selected ev s) := by
  cases hp : s.psm with
  | idle => rw [selected_of_idle ev s hp]; split_ifs <;> constructor
  | preamble => rw [selected_of_preamble ev s hp]; split_ifs <;> constructor
  | data => rw [selected_of_data ev s hp]; split_ifs <;> constructor
  | reserved => rw [selected_of_reserved ev s hp]; constructor

/-! The bit write of the Data state (41_state_machine.md R131, R132, R136, R137). -/

/-- `FRAME[BIT_COUNT−1]`, the bit a Data write repeats or complements. -/
def lastBit (s : State) : Bool := readSlot s.frame (s.bitCount.toNat - 1)

/-- The state after the bit b has been written at `BIT_COUNT`, before COMPLETE. -/
def appended (b wait : Bool) (s : State) : State :=
  { s with frame := writeSlot s.frame s.bitCount.toNat b, bitCount := s.bitCount + 1, waitCount := wait }

/-- The state after a frame has been delivered to the queue (R136). -/
def delivered (f : Frame) (s : State) : State :=
  { s with
    outFifo := s.outFifo ++ [f], frame := 0, bitCount := 0, waitCount := false, psm := .idle,
    wires := { s.wires with status := .frameDone, dbgDerr := false } }

/-- What DATA_REPEAT and DATA_TOGGLE do with their bit: they hold, write it, or write it and complete the frame. -/
def dataWrite (b wait : Bool) (s : State) : State :=
  if completionBlocked s then s else completeFrame (appended b wait s)

theorem exec_dataRepeat_eq {s : State} (hi : invData s) (hp : s.psm = .data) (e : Bool) :
    exec (.dataRepeat e) s = .next (dataWrite (lastBit s) false s) := by
  obtain ⟨hlo, hhi⟩ := hi hp
  show execDataRepeat e s = _
  cases hb : completionBlocked s
  · rw [execDataRepeat_eq e s hb (by omega) (by omega), dataWrite, if_neg (by simp [hb])]
    rfl
  · rw [execDataRepeat, dataWrite, if_pos hb, if_pos hb]

theorem exec_dataToggle_eq {s : State} (hi : invData s) (hp : s.psm = .data) (e : Bool) :
    exec (.dataToggle e) s = .next (dataWrite (!lastBit s) s.waitCount s) := by
  obtain ⟨hlo, hhi⟩ := hi hp
  show execDataToggle e s = _
  cases hb : completionBlocked s
  · rw [execDataToggle_eq e s hb (by omega) (by omega), dataWrite, if_neg (by simp [hb])]
    rfl
  · rw [execDataToggle, dataWrite, if_pos hb, if_pos hb]

/-- Before the last slot the bit is written and nothing is completed. -/
theorem dataWrite_of_lt (b wait : Bool) {s : State} (h : s.bitCount.toNat < 103) :
    dataWrite b wait s = appended b wait s := by
  have hc : (appended b wait s).bitCount.toNat < 104 := by
    show (s.bitCount + 1).toNat < 104
    rw [toNat_succ _ (by omega)]
    omega
  rw [dataWrite, completionBlocked_of_ne s (by omega), if_neg Bool.false_ne_true, completeFrame_of_lt _ hc]

/-- The write of the last slot holds where the queue is full (R137). -/
theorem dataWrite_of_full (b wait : Bool) {s : State} (h : s.bitCount.toNat = 103) (hf : fifoFull s = true) :
    dataWrite b wait s = s := by
  rw [dataWrite, if_pos ((completionBlocked_iff s).2 ⟨h, hf⟩)]

/-- The write of the last slot delivers the frame where the queue has room. -/
theorem dataWrite_of_room (b wait : Bool) {s : State} (h : s.bitCount.toNat = 103) (hf : fifoFull s = false) :
    dataWrite b wait s = delivered (frameContent (writeSlot s.frame 103 b)) s := by
  have hn : (appended b wait s).bitCount.toNat = 104 := by
    show (s.bitCount + 1).toNat = 104
    rw [toNat_succ _ (by omega), h]
  have hroom : fifoFull (appended b wait s) = false := hf
  rw [dataWrite, completionBlocked_of_room s hf, if_neg Bool.false_ne_true]
  rcases completeFrame_cases (appended b wait s) with ⟨hlt, -⟩ | ⟨-, hfull, -⟩ | ⟨-, -, hc⟩
  · omega
  · exact absurd (hroom.symm.trans hfull) Bool.false_ne_true
  · rw [hc, ← h]
    rfl

end Sys2Proof.Machine
end

section
/-! PROOFS. Every step keeps the invariants (10_state.md R37). -/

namespace Sys2Proof.Machine

/-! Slot 0 and the frame buffer's writes. -/

theorem getLsbD_writeSlot_zero (f : Frame) (i : Nat) (b : Bool) : (writeSlot f i b).getLsbD 0 = f.getLsbD 0 := by
  rw [getLsbD_writeSlot, if_neg (by omega)]

theorem getLsbD_frameContent_zero (f : Frame) : (frameContent f).getLsbD 0 = false := by
  rw [getLsbD_frameContent, readSlot_zero]

/-! The operations, by their effect. -/

theorem invariants_takeError (c : EvStatus) {s : State} (hs : Invariants s) : Invariants (takeError c s) := by
  obtain ⟨hzero, -, -, -, hcount, hqueue, hfaults⟩ := hs
  exact ⟨hzero, Psm.noConfusion, Psm.noConfusion, Psm.noConfusion, hcount, hqueue, hfaults⟩

theorem invariants_idleSync {s : State} (hs : Invariants s) :
    Invariants { setWait false s with bitCount := 0, psm := .preamble } := by
  obtain ⟨hzero, -, -, -, -, hqueue, hfaults⟩ := hs
  exact ⟨hzero, Psm.noConfusion, fun _ => ⟨rfl, rfl⟩, Psm.noConfusion, Nat.zero_le _, hqueue, hfaults⟩

theorem invariants_setWait_of_data (b : Bool) {s : State} (hp : s.psm = .data) (hs : Invariants s) :
    Invariants (setWait b s) := by
  obtain ⟨hzero, hres, -, hdata, hcount, hqueue, hfaults⟩ := hs
  exact ⟨hzero, hres, fun hpre => absurd (hp.symm.trans hpre) Psm.noConfusion, hdata, hcount, hqueue, hfaults⟩

/-- PRE_FIRST_PAIR starts from `BIT_COUNT` = 0, so it leaves 2, the least index of I-D. -/
theorem invariants_preFirstPair {e wt : Bool} {s t : State} (hp : s.psm = .preamble) (hs : Invariants s)
    (h : exec (.preFirstPair e wt) s = .next t) : Invariants t := by
  obtain ⟨hzero, -, hpre, -, -, hqueue, hfaults⟩ := hs
  obtain ⟨-, -, rfl⟩ := (execPreFirstPair_eq_next e wt s t).1 h
  have hcount : (s.bitCount + 1 + 1).toNat = 2 := by rw [(hpre hp).1]; rfl
  refine ⟨?_, Psm.noConfusion, Psm.noConfusion, fun _ => ?_, ?_, hqueue, hfaults⟩
  · simp only [invSlotZero, getLsbD_writeSlot_zero, hzero]
  · simp only [hcount]; omega
  · simp only [invBitCount, hcount]; omega

theorem invariants_appended (b wait : Bool) {s : State} (hp : s.psm = .data) (h : s.bitCount.toNat < 103)
    (hs : Invariants s) : Invariants (appended b wait s) := by
  obtain ⟨hzero, hres, -, hdata, -, hqueue, hfaults⟩ := hs
  have hcount : (appended b wait s).bitCount.toNat = s.bitCount.toNat + 1 := toNat_succ _ (by omega)
  have hlow := (hdata hp).1
  refine ⟨(getLsbD_writeSlot_zero _ _ _).trans hzero, hres, fun hpre => ?_, fun _ => ?_, ?_, hqueue, hfaults⟩
  · exact absurd (hp.symm.trans hpre) Psm.noConfusion
  · rw [hcount]; omega
  · rw [invBitCount, hcount]; omega

theorem invariants_delivered {f : Frame} {s : State} (hf : f.getLsbD 0 = false) (hs : Invariants s) :
    Invariants (delivered f s) := by
  obtain ⟨-, -, -, -, -, hqueue, hfaults⟩ := hs
  refine ⟨BitVec.getLsbD_zero, Psm.noConfusion, Psm.noConfusion, Psm.noConfusion, Nat.zero_le _, fun g hg => ?_, hfaults⟩
  rcases List.mem_append.1 hg with hg | hg
  · exact hqueue g hg
  · rw [List.mem_singleton.1 hg, hf]

theorem invariants_dataWrite (b wait : Bool) {s : State} (hp : s.psm = .data) (hs : Invariants s) :
    Invariants (dataWrite b wait s) := by
  obtain ⟨-, -, -, -, hle, -, -⟩ := id hs
  rcases Nat.lt_or_eq_of_le hle with hlt | heq
  · rw [dataWrite_of_lt b wait hlt]
    exact invariants_appended b wait hp hlt hs
  · cases hf : fifoFull s
    · rw [dataWrite_of_room b wait heq hf]
      exact invariants_delivered (getLsbD_frameContent_zero _) hs
    · rwa [dataWrite_of_full b wait heq hf]

/-- An operation that its state's rows hold keeps the invariants; the reserved state has none to keep (I-B). -/
theorem exec_rowOf_keeps_invariants {p : Psm} {i : Instr} {s t : State} (hi : RowOf p i) (hp : s.psm = p)
    (hs : Invariants s) (h : exec i s = .next t) : Invariants t := by
  obtain ⟨-, hres, -, hdata, -⟩ := id hs
  cases hi with
  | idleSync wait => cases h; exact invariants_idleSync hs
  | idleStay cls edge wait => cases h; exact hs
  | preFirstPair edge wait => exact invariants_preFirstPair hp hs h
  | preHalf wait => cases h; exact hs
  | preResync wait => cases h; exact hs
  | preError cls edge wait => cases h; exact invariants_takeError _ hs
  | dataHalf edge => cases h; exact invariants_setWait_of_data true hp hs
  | dataRepeat edge => cases (exec_dataRepeat_eq hdata hp edge).symm.trans h; exact invariants_dataWrite _ _ hp hs
  | dataToggle edge => cases (exec_dataToggle_eq hdata hp edge).symm.trans h; exact invariants_dataWrite _ _ hp hs
  | dataPairError edge => cases h; exact invariants_takeError _ hs
  | dataClassError cls edge wait => cases h; exact invariants_takeError _ hs
  | reservedState cls edge wait => exact absurd hp hres

theorem decoderStep_keeps_invariants {ev : Evw} {s t : State} (hs : Invariants s) (h : decoderStep ev s = .next t) :
    Invariants t := by
  obtain ⟨u, hu, rfl⟩ := (decoderStep_eq_next ev s t).1 h
  have hinv : Invariants u := exec_rowOf_keeps_invariants
    (s := { s with prevTs := ev.ts, wires := stepWires ev s }) (selected_rowOf ev s) rfl hs hu
  exact hinv

theorem exec_consumer_keeps_invariants {w : ConsumerWord} {s t : State} (hs : Invariants s)
    (h : exec (decodeConsumer w) s = .next t) : Invariants t := by
  obtain ⟨q, p, fi, hq, rfl⟩ := exec_consumer_frame h
  obtain ⟨hzero, hres, hpre, hdata, hcount, hqueue, hfaults⟩ := hs
  exact ⟨hzero, hres, hpre, hdata, hcount, fun f hf => hqueue f (hq.subset hf), hfaults⟩

/-- Settles O55: the invariants hold after every reset, the consumer only shortens the queue, and the decoder runs an operation of the
rows of its state. -/
theorem everyStepKeepsTheInvariants : Obligations.EveryStepKeepsTheInvariants := fun _ _ =>
  step_keeps invariants_resetCore (fun _ _ _ _ hu => hu) (fun _ _ _ => exec_consumer_keeps_invariants)
    (fun _ _ _ => decoderStep_keeps_invariants)

end Sys2Proof.Machine
end

section
/-! PROOFS. Slots not written since the last entry to Preamble never reach an output (10_state.md R36, R37, 41_state_machine.md
R141): a step from the same state with another content of those slots. -/

namespace Sys2Proof.Machine

/-- The state with another content of the frame buffer. -/
def withFrame (f : Frame) (s : State) : State := { s with frame := f }

/-- The content f reads as the state's own in every live slot. -/
def AgreesOnLive (f : Frame) (s : State) : Prop := ∀ i, liveSlot s i → readSlot f i = readSlot s.frame i

theorem sameButStale_withFrame {f : Frame} {s : State} (h : AgreesOnLive f s) : sameButStale s (withFrame f s) :=
  ⟨rfl, h⟩

theorem sameButStale_iff (s t : State) : sameButStale s t ↔ ∃ f, t = withFrame f s ∧ AgreesOnLive f s :=
  ⟨fun ⟨ht, h⟩ => ⟨t.frame, ht, h⟩, fun ⟨_, ht, h⟩ => ht ▸ sameButStale_withFrame h⟩

theorem sameButStale_refl (s : State) : sameButStale s s := ⟨rfl, fun _ _ => rfl⟩

/-- Outside Data no slot is live. -/
theorem agreesOnLive_of_ne_data (f : Frame) {s : State} (hp : s.psm ≠ .data) : AgreesOnLive f s :=
  fun _ hl => absurd hl.1 hp

/-- The end of a decoder step reads no slot. -/
theorem sameButStale_leaveStep (ev : Evw) (op : Instr) {s t : State} (h : sameButStale s t) :
    sameButStale (leaveStep ev op s) (leaveStep ev op t) := by
  obtain ⟨f, rfl, hf⟩ := (sameButStale_iff s t).1 h
  exact sameButStale_withFrame (s := leaveStep ev op s) hf

/-! The writes. -/

/-- A write makes its own slot agree and keeps the agreement of every other. -/
theorem readSlot_writeSlot_congr {f g : Frame} {i j : Nat} (b : Bool) (hi : i < 104)
    (h : j ≠ i → readSlot f j = readSlot g j) : readSlot (writeSlot f i b) j = readSlot (writeSlot g i b) j := by
  rw [readSlot_writeSlot, readSlot_writeSlot]
  split_ifs with hw
  · rfl
  · rcases Nat.eq_zero_or_pos j with rfl | hj
    · rw [readSlot_zero, readSlot_zero]
    · exact h (by omega)

/-- PRE_FIRST_PAIR starts from `BIT_COUNT` = 0 and writes both slots that it makes live. -/
theorem exec_preFirstPair_withFrame {e wt : Bool} {s s' : State} (f : Frame) (hc : s.bitCount = 0)
    (h : exec (.preFirstPair e wt) s = .next s') :
    ∃ t', exec (.preFirstPair e wt) (withFrame f s) = .next t' ∧ sameButStale s' t' := by
  obtain ⟨h1, h2, rfl⟩ := (execPreFirstPair_eq_next e wt s s').1 h
  refine ⟨_, (execPreFirstPair_eq_next e wt (withFrame f s) _).2 ⟨h1, h2, rfl⟩, rfl, fun i hl => ?_⟩
  have hlive : i < 2 := by simpa [hc] using hl.2
  simp only [hc, withFrame]
  refine readSlot_writeSlot_congr e (by decide) fun _ => readSlot_writeSlot_congr (!e) (by decide) fun hne => ?_
  have hne : i ≠ 1 := hne
  obtain rfl : i = 0 := by omega
  rw [readSlot_zero, readSlot_zero]

/-- The bit that a Data write reads is in a live slot. -/
theorem lastBit_withFrame {f : Frame} {s : State} (hp : s.psm = .data) (hi : invData s) (hf : AgreesOnLive f s) :
    lastBit (withFrame f s) = lastBit s := by
  have hlow : 2 ≤ s.bitCount.toNat := (hi hp).1
  have hlive : liveSlot s (s.bitCount.toNat - 1) := ⟨hp, by omega⟩
  exact hf _ hlive

theorem appended_withFrame (b wait : Bool) {f : Frame} {s : State} (hp : s.psm = .data) (h : s.bitCount.toNat < 103)
    (hf : AgreesOnLive f s) : sameButStale (appended b wait s) (appended b wait (withFrame f s)) := by
  refine ⟨rfl, fun i hl => readSlot_writeSlot_congr (i := s.bitCount.toNat) b (by omega) fun hne => hf i ⟨hp, ?_⟩⟩
  have hlt : i < (s.bitCount + 1).toNat := hl.2
  rw [toNat_succ _ (by omega)] at hlt
  omega

/-- When slot 103 is written, slots 0..102 are live, so the frame delivered is the same. -/
theorem delivered_withFrame (b : Bool) {f : Frame} {s : State} (hp : s.psm = .data) (h : s.bitCount.toNat = 103)
    (hf : AgreesOnLive f s) : delivered (frameContent (writeSlot f 103 b)) (withFrame f s) =
      delivered (frameContent (writeSlot s.frame 103 b)) s := by
  have hcontent : frameContent (writeSlot f 103 b) = frameContent (writeSlot s.frame 103 b) :=
    frameContent_congr _ _ fun i hi =>
      readSlot_writeSlot_congr b (by decide) fun hne => hf i ⟨hp, by omega⟩
  rw [hcontent]
  rfl

theorem dataWrite_withFrame (b wait : Bool) {f : Frame} {s : State} (hp : s.psm = .data) (hi : invData s)
    (hf : AgreesOnLive f s) : sameButStale (dataWrite b wait s) (dataWrite b wait (withFrame f s)) := by
  rcases Nat.lt_or_eq_of_le (hi hp).2 with hlt | heq
  · rw [dataWrite_of_lt b wait hlt, dataWrite_of_lt b wait (s := withFrame f s) hlt]
    exact appended_withFrame b wait hp hlt hf
  · cases hfull : fifoFull s
    · rw [dataWrite_of_room b wait heq hfull, dataWrite_of_room b wait (s := withFrame f s) heq hfull,
        show (withFrame f s).frame = f from rfl, delivered_withFrame b hp heq hf]
      exact sameButStale_refl _
    · rw [dataWrite_of_full b wait heq hfull, dataWrite_of_full b wait (s := withFrame f s) heq hfull]
      exact sameButStale_withFrame hf

/-! The operations of the decoder and of the consumer. -/

/-- The bit writes of Data read a live slot and write the next one, PRE_FIRST_PAIR writes every slot that it makes live, and no other
operation of the PSM reads or writes the buffer. -/
theorem exec_rowOf_withFrame {p : Psm} {i : Instr} {s s' : State} {f : Frame} (hi : RowOf p i) (hp : s.psm = p)
    (hs : Invariants s) (hf : AgreesOnLive f s) (h : exec i s = .next s') :
    ∃ t', exec i (withFrame f s) = .next t' ∧ sameButStale s' t' := by
  obtain ⟨-, hres, hpre, hdata, -⟩ := hs
  have unchanged : sameButStale s (withFrame f s) := sameButStale_withFrame hf
  have error (c : EvStatus) : sameButStale (takeError c s) (takeError c (withFrame f s)) :=
    sameButStale_withFrame (s := takeError c s) (agreesOnLive_of_ne_data f Psm.noConfusion)
  cases hi with
  | idleSync wait => cases h; exact ⟨_, rfl, rfl, agreesOnLive_of_ne_data f Psm.noConfusion⟩
  | idleStay cls edge wait => cases h; exact ⟨_, rfl, unchanged⟩
  | preFirstPair edge wait => exact exec_preFirstPair_withFrame f (hpre hp).1 h
  | preHalf wait => cases h; exact ⟨_, rfl, unchanged⟩
  | preResync wait => cases h; exact ⟨_, rfl, unchanged⟩
  | preError cls edge wait => cases h; exact ⟨_, rfl, error _⟩
  | dataHalf edge => cases h; exact ⟨_, rfl, rfl, hf⟩
  | dataRepeat edge =>
    cases (exec_dataRepeat_eq hdata hp edge).symm.trans h
    rw [exec_dataRepeat_eq (s := withFrame f s) hdata hp edge, lastBit_withFrame hp hdata hf]
    exact ⟨_, rfl, dataWrite_withFrame _ _ hp hdata hf⟩
  | dataToggle edge =>
    cases (exec_dataToggle_eq hdata hp edge).symm.trans h
    rw [exec_dataToggle_eq (s := withFrame f s) hdata hp edge, lastBit_withFrame hp hdata hf]
    exact ⟨_, rfl, dataWrite_withFrame _ _ hp hdata hf⟩
  | dataPairError edge => cases h; exact ⟨_, rfl, error _⟩
  | dataClassError cls edge wait => cases h; exact ⟨_, rfl, error _⟩
  | reservedState cls edge wait => exact absurd hp hres

/-- The word selected for an event does not depend on the buffer, so both steps run the same operation. -/
theorem decoderStep_withFrame {ev : Evw} {s s' : State} {f : Frame} (hs : Invariants s) (hf : AgreesOnLive f s)
    (h : decoderStep ev s = .next s') :
    ∃ t', decoderStep ev (withFrame f s) = .next t' ∧ sameButStale s' t' := by
  obtain ⟨u, hu, rfl⟩ := (decoderStep_eq_next ev s s').1 h
  obtain ⟨v, hv, huv⟩ := exec_rowOf_withFrame (s := { s with prevTs := ev.ts, wires := stepWires ev s })
    (selected_rowOf ev s) rfl hs hf hu
  exact ⟨_, (decoderStep_eq_next ev (withFrame f s) _).2 ⟨v, hv, rfl⟩, sameButStale_leaveStep _ _ huv⟩

theorem popFrame_withFrame (f : Frame) (s : State) : popFrame (withFrame f s) = withFrame f (popFrame s) := by
  cases hq : s.outFifo with
  | nil => rw [popFrame_nil s hq, popFrame_nil (withFrame f s) hq]
  | cons g rest => rw [popFrame_cons s g rest hq, popFrame_cons (withFrame f s) g rest hq]; rfl

/-- The consumer's operations neither read nor write the buffer (10_state.md R27). -/
theorem exec_consumer_withFrame (w : ConsumerWord) (f : Frame) (s : State) :
    exec (decodeConsumer w) (withFrame f s) =
      andThen (exec (decodeConsumer w) s) fun u => .next (withFrame f u) := by
  cases w with
  | pop => exact congrArg Host.Outcome.next (popFrame_withFrame f s)
  | nibblePack g => rfl
  | digitMap v => simp only [decodeConsumer, decodeNib]; split_ifs <;> rfl
  | tempDecode p => simp only [decodeConsumer, decodePsel]; split_ifs <;> rfl
  | fiOutputs g => rfl

theorem exec_consumer_sameButStale {w : ConsumerWord} {s s' : State} {f : Frame} (hf : AgreesOnLive f s)
    (h : exec (decodeConsumer w) s = .next s') :
    ∃ t', exec (decodeConsumer w) (withFrame f s) = .next t' ∧ sameButStale s' t' := by
  refine ⟨withFrame f s', by rw [exec_consumer_withFrame, h, andThen_next], sameButStale_withFrame ?_⟩
  obtain ⟨q, p, fi, -, rfl⟩ := exec_consumer_frame h
  exact hf

/-! The step. -/

/-- Settles O56: whose turn it is, what is offered and what is held do not depend on the buffer, so the other state takes the same turn;
a reset clears the buffer, and the decoder and the consumer are `decoderStep_withFrame` and `exec_consumer_sameButStale`. -/
theorem staleSlotsNeverReachAnOutput : Obligations.StaleSlotsNeverReachAnOutput := by
  intro s t s' hs hst h
  obtain ⟨f, rfl, hf⟩ := (sameButStale_iff s t).1 hst
  obtain ⟨-, -, -, -, -, -, hfaults⟩ := id hs
  rcases step_cases s s' h with ⟨rest, ht, rfl⟩ | ⟨c, rest, ht, hc, hsame, rfl⟩ | ⟨w, rest, ht, hwf, rfl⟩ |
    ⟨w, rest, ht, hwf, hx⟩ | ⟨rest, ht, hwf, hx⟩ | ⟨hm, hwf, hx⟩
  · exact ⟨_, step_of_reset (s := withFrame f s) ht, sameButStale_refl _⟩
  · rw [step_of_cfg (s := withFrame f s) ht]
    exact ⟨_, (configure_eq_next c _ _).2 ⟨hc, hsame, rfl⟩, rfl, hf⟩
  · exact ⟨_, step_of_offer (s := withFrame f s) ht hwf, rfl, hf⟩
  · rw [step_of_consumer (s := withFrame f s) ht hwf]
    exact exec_consumer_sameButStale (s := { s with turns := rest }) hf hx
  · rw [step_of_interpret (s := withFrame f s) ht hwf]
    exact exec_consumer_sameButStale (w := .fiOutputs s.fi.frame) (s := { s with turns := rest }) hf hx
  · rw [step_of_decoderMoves (s := withFrame f s) hm hfaults, guardLaunch_of_wf (s := withFrame f s) hwf]
    simp only [decoderTurn_eq_next]
    rcases hx with ⟨rfl, hwait⟩ | ⟨w, rest, he, hen, hx⟩
    · exact ⟨_, .inl ⟨rfl, hwait⟩, rfl, hf⟩
    · obtain ⟨t', ht', hst'⟩ :=
        decoderStep_withFrame (s := { s with turns := s.turns.tail, events := rest }) hs hf hx
      exact ⟨t', .inr ⟨w, rest, he, hen, ht'⟩, hst'⟩

end Sys2Proof.Machine
end

section
/-! PROOFS. The bit writes whose index names no slot (20_memory.md R50; assumption 9). -/

namespace Sys2Proof.Machine

/-- The Preamble's write faults where the incremented index names no slot. -/
theorem preIncrementWrite_fault (b : Bool) {s : State} (h : 104 ≤ (s.bitCount + 1).toNat) :
    preIncrementWrite b s = .fault (.noSuchSlot (s.bitCount + 1)) :=
  storeSlot_fault _ _ _ h

theorem exec_dataRepeat_fault (e : Bool) {s : State} (h : s.bitCount.toNat = 0 ∨ 104 ≤ s.bitCount.toNat) :
    exec (.dataRepeat e) s = .fault (.noSuchSlot s.bitCount) := by
  change execDataRepeat e s = _
  rw [execDataRepeat, completionBlocked_of_ne s (by omega), if_neg Bool.false_ne_true, appendBit_fault false s h,
    andThen_fault]

theorem exec_dataToggle_fault (e : Bool) {s : State} (h : s.bitCount.toNat = 0 ∨ 104 ≤ s.bitCount.toNat) :
    exec (.dataToggle e) s = .fault (.noSuchSlot s.bitCount) := by
  change execDataToggle e s = _
  rw [execDataToggle, completionBlocked_of_ne s (by omega), if_neg Bool.false_ne_true, appendBit_fault true s h,
    andThen_fault]

/-- PRE_FIRST_PAIR faults in its first write. -/
theorem exec_preFirstPair_fault_first (e wt : Bool) {s : State} (h : 104 ≤ (s.bitCount + 1).toNat) :
    exec (.preFirstPair e wt) s = .fault (.noSuchSlot (s.bitCount + 1)) := by
  change execPreFirstPair e wt s = _
  rw [execPreFirstPair, preIncrementWrite_fault _ h, andThen_fault]

/-- PRE_FIRST_PAIR faults in its second write, the first one in the buffer's last slot. -/
theorem exec_preFirstPair_fault_second (e wt : Bool) {s : State} (h1 : (s.bitCount + 1).toNat < 104)
    (h2 : 104 ≤ (s.bitCount + 1 + 1).toNat) :
    exec (.preFirstPair e wt) s = .fault (.noSuchSlot (s.bitCount + 1 + 1)) := by
  change execPreFirstPair e wt s = _
  rw [execPreFirstPair, (preIncrementWrite_eq_next _ s _).2 ⟨h1, rfl⟩, andThen_next, preIncrementWrite_fault _ h2,
    andThen_fault]

/-- From `BIT_COUNT` = 127 the increments give 0 and 1, so only the second write has an effect (10_state.md R26). -/
theorem exec_preFirstPair_wraps (e wt : Bool) {s : State} (h : s.bitCount = 127) :
    exec (.preFirstPair e wt) s = .next { s with frame := writeSlot s.frame 1 e, bitCount := 1, psm := .data } :=
  (execPreFirstPair_eq_next e wt s _).2 (by rw [h]; exact ⟨by decide, by decide, rfl⟩)

/-- Settles O20: DATA_REPEAT and DATA_TOGGLE fault in their one write, PRE_FIRST_PAIR in the first of its two writes or in the second,
and at 127 it wraps. -/
theorem writeOutsideBufferFaults : Obligations.WriteOutsideBufferFaults := by
  intro e wt s
  refine ⟨fun h => ⟨exec_dataRepeat_fault e h, exec_dataToggle_fault e h⟩, fun hlo hhi => ?first, fun h => ?second,
    fun h => ?wraps⟩
  case first =>
    exact exec_preFirstPair_fault_first e wt (by rw [toNat_succ _ hhi]; omega)
  case second =>
    have hc : s.bitCount = 102 := BitVec.eq_of_toNat_eq h
    rw [exec_preFirstPair_fault_second e wt (by rw [hc]; decide) (by rw [hc]; decide), hc]
    rfl
  case wraps =>
    refine ⟨_, exec_preFirstPair_wraps e wt (BitVec.eq_of_toNat_eq h), rfl, fun i => ?_⟩
    simp [readSlot_writeSlot]

end Sys2Proof.Machine
end

section
/-! PROOFS. The consumer's turns, and the order in which frames leave the queue and events are handled (20_memory.md R53, R57,
R59). -/

namespace Sys2Proof.Machine

/-! The consumer and the decoder. -/

/-- Settles O36: the two cases of `popFrame`. -/
theorem popResult : Obligations.PopResult := fun s =>
  ⟨fun f rest hq => congrArg Host.Outcome.next (popFrame_cons s f rest hq),
    fun hq => congrArg Host.Outcome.next (popFrame_nil s hq)⟩

/-- From s to t the queue has lost its head to the frames popped, or nothing has happened to either (R57). -/
def PopsAtMostOne (s t : State) : Prop :=
  (t.outFifo = s.outFifo ∧ t.popped = s.popped) ∨ ∃ f, s.outFifo = f :: t.outFifo ∧ t.popped = s.popped ++ [f]

/-- A consumer's operation pops one frame or none; beside that it writes the FI's ports only. -/
theorem exec_consumer_pops {w : ConsumerWord} {s t : State} (h : exec (decodeConsumer w) s = .next t) :
    t = { s with outFifo := t.outFifo, popped := t.popped, fi := t.fi } ∧ PopsAtMostOne s t := by
  rcases exec_consumer_next w s t h with rfl | ht
  · cases hq : s.outFifo with
    | nil => rw [popFrame_nil s hq]; exact ⟨rfl, .inl ⟨rfl, rfl⟩⟩
    | cons f rest => rw [popFrame_cons s f rest hq]; exact ⟨rfl, .inr ⟨f, hq, rfl⟩⟩
  · rw [ht]; exact ⟨rfl, .inl ⟨rfl, rfl⟩⟩

/-- The step on a turn of the consumer or of the FI is a consumer's operation. -/
theorem step_of_consumerTurn {s t : State} {rest : List Turn}
    (ht : (∃ w, s.turns = .consumer w :: rest) ∨ s.turns = .interpret :: rest) (h : step s = .next t) :
    ∃ w, exec (decodeConsumer w) { s with turns := rest } = .next t := by
  rcases ht with ⟨w, ht⟩ | ht <;> rw [step_of_turn ht, takeTurn, guardLaunch_eq_next] at h
  · exact ⟨w, h.2⟩
  · exact ⟨.fiOutputs s.fi.frame, h.2⟩

/-- Settles O37: `exec_consumer_pops` on the state with the turn taken. -/
theorem consumerNeverChangesTheDecoder : Obligations.ConsumerNeverChangesTheDecoder := by
  intro s t rest hturn h
  obtain ⟨w, hx⟩ := step_of_consumerTurn hturn h
  obtain ⟨ht, hpops⟩ := exec_consumer_pops hx
  rw [ht]
  exact ⟨⟨rfl, rfl, rfl, rfl, rfl⟩, rfl, rfl, rfl, rfl, rfl, rfl, hpops⟩

/-! The order of the frames (R59 b). -/

/-- From s to t at most one frame is completed, behind all others, and frames are popped only in the order pushed. -/
def KeepsFrameOrder (s t : State) : Prop :=
  (pushed t = pushed s ∨ ∃ g, pushed t = pushed s ++ [g]) ∧ s.popped <+: t.popped ∧ t.popped <+: pushed s

theorem keepsFrameOrder_of_pops {s t : State} (h : PopsAtMostOne s t) : KeepsFrameOrder s t := by
  rcases h with ⟨hq, hp⟩ | ⟨f, hq, hp⟩ <;> simp [KeepsFrameOrder, pushed, hq, hp]

theorem keepsFrameOrder_of_pushes {s t : State} (hp : t.popped = s.popped)
    (hq : t.outFifo = s.outFifo ∨ ∃ g, t.outFifo = s.outFifo ++ [g]) : KeepsFrameOrder s t := by
  rcases hq with hq | ⟨g, hq⟩
  · exact keepsFrameOrder_of_pops (.inl ⟨hq, hp⟩)
  · simp [KeepsFrameOrder, pushed, hq, hp]

/-- The decoder pops nothing and pushes at most one frame. -/
theorem decoderStep_keepsFrameOrder {ev : Evw} {s t : State} (h : decoderStep ev s = .next t) : KeepsFrameOrder s t := by
  obtain ⟨u, hu, rfl⟩ := (decoderStep_eq_next ev s t).1 h
  exact keepsFrameOrder_of_pushes (exec_psm_frame _ _ _ hu).popped ((exec_psm_outFifo hu).imp_right And.right)

/-- Settles O38: the consumer pops at most the head, the decoder pushes at most one frame at the tail, and no other turn but the reset
touches the frames. -/
theorem framesLeaveInOrder : Obligations.FramesLeaveInOrder := by
  intro s t h hreset
  change KeepsFrameOrder s t
  have untouched {u : State} (hq : u.outFifo = s.outFifo) (hp : u.popped = s.popped) : KeepsFrameOrder s u :=
    keepsFrameOrder_of_pops (.inl ⟨hq, hp⟩)
  rcases step_cases s t h with ⟨rest, ht, -⟩ | ⟨c, rest, -, -, -, rfl⟩ | ⟨w, rest, -, -, rfl⟩ |
    ⟨w, rest, -, -, hx⟩ | ⟨rest, -, -, hx⟩ | ⟨-, -, ⟨rfl, -⟩ | ⟨w, rest, -, -, hx⟩⟩
  · exact absurd (congrArg List.head? ht) hreset
  · exact untouched rfl rfl
  · exact untouched rfl rfl
  · exact keepsFrameOrder_of_pops (exec_consumer_pops hx).2
  · exact keepsFrameOrder_of_pops (exec_consumer_pops (w := .fiOutputs s.fi.frame) hx).2
  · exact untouched rfl rfl
  · exact (decoderStep_keepsFrameOrder hx :)

/-! The entry of a decoder step (60_exceptions.md R205, R215). -/

/-- `DBG_DERR` is as the report says: raised, where it exists, for a data error and for nothing else (R215). -/
def DerrAsReported (s : State) : Prop :=
  s.wires.dbgDerr = (s.params.hasDebug && s.wires.status == .dataError)

theorem derrAsReported_report (c : EvStatus) (s : State) : DerrAsReported (report c s) := rfl

theorem completeFrame_keeps_derrAsReported {s : State} (hs : DerrAsReported s) : DerrAsReported (completeFrame s) := by
  rw [completeFrame]
  split_ifs
  · exact hs
  · exact derrAsReported_report _ _
  · exact hs

/-- An operation of the PSM writes the two together, in `report`, or neither. -/
theorem exec_psm_keeps_derrAsReported {w : Edw} {s t : State} (hs : DerrAsReported s)
    (h : exec (decodeEdw w) s = .next t) : DerrAsReported t := by
  rcases exec_psm_cases w s t h with
    rfl | rfl | ⟨e, wt, -, hp⟩ | rfl | rfl | rfl | rfl | ⟨flip, wt, u, -, -, -, hu, rfl⟩
  · exact hs
  · exact hs
  · obtain ⟨-, -, rfl⟩ := (execPreFirstPair_eq_next e wt s t).1 hp
    exact hs
  · exact derrAsReported_report _ _
  · exact derrAsReported_report _ _
  · exact hs
  · exact hs
  · obtain ⟨-, -, rfl⟩ := (appendBit_eq_next flip s u).1 hu
    exact completeFrame_keeps_derrAsReported hs

/-- A step begins with nothing reported and `DBG_DERR` low. -/
theorem derrAsReported_stepWires (ev : Evw) (s : State) :
    DerrAsReported { s with prevTs := ev.ts, wires := stepWires ev s } :=
  (Bool.and_false s.params.hasDebug).symm

/-- The entry recorded after the operation is the one of the event and the state before, with the operation's report. -/
theorem entryOf_eq_entryFor {ev : Evw} {s u : State}
    (h : exec (selected ev s) { s with prevTs := ev.ts, wires := stepWires ev s } = .next u) :
    entryOf ev (selected ev s) u = entryFor ev s u.wires.status := by
  have hf := exec_psm_frame _ _ _ h
  have hderr : DerrAsReported u := exec_psm_keeps_derrAsReported (derrAsReported_stepWires ev s) h
  have hdebug : u.params.hasDebug = s.params.hasDebug := congrArg Params.hasDebug hf.params
  have hstrobes : strobesOf u = (entryFor ev s u.wires.status).strobes := by
    rw [DerrAsReported] at hderr
    cases hd : s.params.hasDebug <;>
      simp [strobesOf, entryFor, hderr, hdebug, hf.dbgSync, stepWires, hd]
  simp only [entryOf, hf.dt, hf.cls, hf.edw, hstrobes]
  rfl

theorem decoderStep_events {ev : Evw} {s t : State} (h : decoderStep ev s = .next t) : t.events = s.events := by
  obtain ⟨u, hu, rfl⟩ := (decoderStep_eq_next ev s t).1 h
  exact (exec_psm_frame _ _ _ hu).events

/-- A decoder step records its event, and nothing else. -/
theorem decoderStep_history {ev : Evw} {s t : State} (h : decoderStep ev s = .next t) :
    ∃ st, t.history = s.history ++ [entryFor ev s st] := by
  obtain ⟨u, hu, rfl⟩ := (decoderStep_eq_next ev s t).1 h
  have hist : u.history = s.history := (exec_psm_frame _ _ _ hu).history
  exact ⟨u.wires.status, by rw [leaveStep_history, hist, entryOf_eq_entryFor hu]⟩

theorem exec_consumer_events_history {w : ConsumerWord} {s t : State} (h : exec (decodeConsumer w) s = .next t) :
    t.history = s.history ∧ t.events = s.events := by
  obtain ⟨q, p, fi, -, rfl⟩ := exec_consumer_frame h
  exact ⟨rfl, rfl⟩

/-! The order of the events (R59 a). -/

/-- Settles O39: only the edge source adds an event, and only the decoder's step on the event offered takes and records one. -/
theorem eventsHandledInOrder : Obligations.EventsHandledInOrder := by
  intro s t h
  rcases step_cases s t h with ⟨rest, -, rfl⟩ | ⟨c, rest, -, -, -, rfl⟩ | ⟨w, rest, ht, -, rfl⟩ |
    ⟨w, rest, -, -, hx⟩ | ⟨rest, -, -, hx⟩ | ⟨-, -, ⟨rfl, -⟩ | ⟨w, rest, he, -, hx⟩⟩
  · exact .inl ⟨rfl, .inl rfl⟩
  · exact .inl ⟨rfl, .inl rfl⟩
  · exact .inl ⟨rfl, .inr ⟨w, rest, ht, rfl⟩⟩
  · exact .inl ((exec_consumer_events_history hx).imp_right .inl)
  · exact .inl ((exec_consumer_events_history (w := .fiOutputs s.fi.frame) hx).imp_right .inl)
  · exact .inl ⟨rfl, .inl rfl⟩
  · obtain ⟨st, hist⟩ := decoderStep_history hx
    have hevents : t.events = rest := decoderStep_events hx
    exact .inr ⟨w, st, by rw [he, hevents], hist⟩

end Sys2Proof.Machine
end

section
/-! PROOFS. Decode and encode invert each other (30_encoding.md R71 to R80); the words of the spec and the columns of R75 follow
from the encoder's columns. -/

namespace Sys2Proof

/-! The operands that a row admits beside the rows before it (30_encoding.md R75, R76). -/

theorem idleStayOk_iff (cls : BitVec 3) (edge : Bool) : idleStayOk cls edge = true ↔ ¬(cls = 3 ∧ edge = false) := by
  simp [idleStayOk, imp_iff_not_or]

theorem preErrorOk_iff (cls : BitVec 3) (edge : Bool) :
    preErrorOk cls edge = true ↔ cls ≠ 2 ∧ ¬(cls = 1 ∧ edge = true) ∧ ¬(cls = 3 ∧ edge = false) := by
  simp [preErrorOk, imp_iff_not_or, and_assoc]

theorem dataClassErrorOk_iff (cls : BitVec 3) : dataClassErrorOk cls = true ↔ cls ≠ 1 ∧ cls ≠ 2 := by
  simp [dataClassErrorOk]

theorem digitInvalidOk_iff (v : Nib) : digitInvalidOk v = true ↔ v ≠ 5 ∧ v ≠ 6 ∧ v ≠ 9 ∧ v ≠ 10 := by
  simp [digitInvalidOk, and_assoc]

/-! From an operation to its word and back. -/

/-- Settles O3: the round trip of each row, by the constructors of `Instr`. -/
theorem decodeInvertsEncode : Obligations.DecodeInvertsEncode := by
  intro i hwf
  cases i with
  | timestamp ev => exact Laws.RoundTrip.timestamp ev hwf
  | edgeBit ev => exact Laws.RoundTrip.edgeBit ev hwf
  | classify ev => exact Laws.RoundTrip.classify ev hwf
  | idleSync wait => exact Laws.RoundTrip.idleSync wait hwf
  | idleStay cls edge wait => exact Laws.RoundTrip.idleStay cls edge wait hwf
  | preFirstPair edge wait => exact Laws.RoundTrip.preFirstPair edge wait hwf
  | preHalf wait => exact Laws.RoundTrip.preHalf wait hwf
  | preResync wait => exact Laws.RoundTrip.preResync wait hwf
  | preError cls edge wait => exact Laws.RoundTrip.preError cls edge wait hwf
  | dataHalf edge => exact Laws.RoundTrip.dataHalf edge hwf
  | dataRepeat edge => exact Laws.RoundTrip.dataRepeat edge hwf
  | dataToggle edge => exact Laws.RoundTrip.dataToggle edge hwf
  | dataPairError edge => exact Laws.RoundTrip.dataPairError edge hwf
  | dataClassError cls edge wait => exact Laws.RoundTrip.dataClassError cls edge wait hwf
  | reservedState cls edge wait => exact Laws.RoundTrip.reservedState cls edge wait hwf
  | completeRepeat edge => exact Laws.RoundTrip.completeRepeat edge hwf
  | completeToggle edge => exact Laws.RoundTrip.completeToggle edge hwf
  | nibblePack frame => exact Laws.RoundTrip.nibblePack frame hwf
  | digit0 => exact Laws.RoundTrip.digit0 hwf
  | digit1 => exact Laws.RoundTrip.digit1 hwf
  | digit2 => exact Laws.RoundTrip.digit2 hwf
  | digit3 => exact Laws.RoundTrip.digit3 hwf
  | digitInvalid v => exact Laws.RoundTrip.digitInvalid v hwf
  | tempDecodeP1 => exact Laws.RoundTrip.tempDecodeP1 hwf
  | tempDecodeP2 => exact Laws.RoundTrip.tempDecodeP2 hwf
  | fiOutputs frame => exact Laws.RoundTrip.fiOutputs frame hwf
  | pop => exact Laws.RoundTrip.pop hwf
  | reset => exact Laws.RoundTrip.reset hwf

theorem decode_of_encode_eq {i : Instr} {w : OpWord} (hwf : i.wf = true) (h : encode i = w) : decode w = .ok i :=
  h ▸ decodeInvertsEncode i hwf

theorem decodeEdw_of_encode_eq {i : Instr} {w : Edw} (hwf : i.wf = true) (h : encode i = .psm w) : decodeEdw w = i :=
  Except.ok.inj (decode_of_encode_eq hwf h)

/-! From a word to its operation and back. -/

/-- The completion sub-step reads the word of its DATA operation (41_state_machine.md R136). -/
theorem decodeCompletion_eq_ok {w : Edw} {i : Instr} (h : decodeCompletion w = .ok i) :
    (∃ e, decodeEdw w = .dataRepeat e ∧ i = .completeRepeat e) ∨
      ∃ e, decodeEdw w = .dataToggle e ∧ i = .completeToggle e := by
  unfold decodeCompletion at h
  split at h
  · exact .inl ⟨_, ‹_›, (Except.ok.inj h).symm⟩
  · exact .inr ⟨_, ‹_›, (Except.ok.inj h).symm⟩
  · cases h

theorem wf_encode_of_decodeCompletion {w : Edw} {i : Instr} (h : decodeCompletion w = .ok i) :
    i.wf = true ∧ encode i = .completion w := by
  rcases decodeCompletion_eq_ok h with ⟨e, hw, rfl⟩ | ⟨e, hw, rfl⟩
  all_goals
    have hword := encode_decodeEdw w
    rw [hw] at hword
    exact ⟨rfl, congrArg OpWord.completion (OpWord.psm.inj hword)⟩

/-- A nibble is the digit's own or none of the four (30_encoding.md R76). -/
theorem wf_encode_decodeNib (v : Nib) : (decodeNib v).wf = true ∧ encode (decodeNib v) = .consumer (.digitMap v) := by
  unfold decodeNib
  split_ifs with h5 h6 h9 h10
  · exact ⟨rfl, h5 ▸ rfl⟩
  · exact ⟨rfl, h6 ▸ rfl⟩
  · exact ⟨rfl, h9 ▸ rfl⟩
  · exact ⟨rfl, h10 ▸ rfl⟩
  · exact ⟨(digitInvalidOk_iff v).2 ⟨h5, h6, h9, h10⟩, rfl⟩

theorem wf_encode_decodePsel (p : BitVec 1) :
    (decodePsel p).wf = true ∧ encode (decodePsel p) = .consumer (.tempDecode p) := by
  revert p; decide

theorem wf_encode_decodeConsumer (w : ConsumerWord) :
    (decodeConsumer w).wf = true ∧ encode (decodeConsumer w) = .consumer w := by
  cases w with
  | pop => exact ⟨rfl, rfl⟩
  | nibblePack f => exact ⟨rfl, rfl⟩
  | digitMap v => exact wf_encode_decodeNib v
  | tempDecode p => exact wf_encode_decodePsel p
  | fiOutputs f => exact ⟨rfl, rfl⟩

/-- Settles O4: by the unit that reads the word; an event's word is its two fields, a decode word the word of the row selected. -/
theorem encodeInvertsDecode : Obligations.EncodeInvertsDecode := by
  intro w i h
  cases w with
  | timestamp w =>
    obtain rfl := Except.ok.inj h
    exact ⟨rfl, congrArg OpWord.timestamp (Evw.word_ofWord w)⟩
  | edge w =>
    obtain rfl := Except.ok.inj h
    exact ⟨rfl, congrArg OpWord.edge (Evw.word_ofWord w)⟩
  | classify w =>
    obtain rfl := Except.ok.inj h
    exact ⟨rfl, congrArg OpWord.classify (Evw.word_ofWord w)⟩
  | psm w =>
    obtain rfl := Except.ok.inj h
    exact ⟨decodeEdw_wf w, encode_decodeEdw w⟩
  | completion w => exact wf_encode_of_decodeCompletion h
  | consumer w =>
    obtain rfl := Except.ok.inj h
    exact wf_encode_decodeConsumer w
  | reset =>
    obtain rfl := Except.ok.inj h
    exact ⟨rfl, rfl⟩

/-! The words of the spec. -/

/-- Settles O5: each of the words is the one that `encode` assembles for a well-formed operation. -/
theorem specWordsDecode : Obligations.SpecWordsDecode :=
  ⟨decode_of_encode_eq rfl rfl, decode_of_encode_eq rfl rfl, decode_of_encode_eq rfl rfl, decode_of_encode_eq rfl rfl,
    decode_of_encode_eq rfl rfl, decode_of_encode_eq rfl rfl, decode_of_encode_eq rfl rfl, decode_of_encode_eq rfl rfl,
    decode_of_encode_eq rfl rfl, decode_of_encode_eq rfl rfl, decode_of_encode_eq rfl rfl⟩

/-! The operation map of R75 by its columns, at every value of the class field. -/

theorem decodeEdw_pack_idle (cls : BitVec 3) (edge wait : Bool) :
    decodeEdw (edwPack 0b00 cls edge wait) =
      if cls = 0b011 ∧ edge = false then .idleSync wait else .idleStay cls edge wait := by
  split_ifs with hsync
  · obtain ⟨rfl, rfl⟩ := hsync
    exact decodeEdw_of_encode_eq rfl rfl
  · exact decodeEdw_of_encode_eq ((idleStayOk_iff cls edge).2 hsync) rfl

theorem decodeEdw_pack_preamble (cls : BitVec 3) (edge wait : Bool) :
    decodeEdw (edwPack 0b01 cls edge wait) =
      if cls = 0b010 then .preFirstPair edge wait
      else if cls = 0b001 ∧ edge = true then .preHalf wait
      else if cls = 0b011 ∧ edge = false then .preResync wait
      else .preError cls edge wait := by
  split_ifs with htwo hhalf hresync
  · subst htwo
    exact decodeEdw_of_encode_eq rfl rfl
  · obtain ⟨rfl, rfl⟩ := hhalf
    exact decodeEdw_of_encode_eq rfl rfl
  · obtain ⟨rfl, rfl⟩ := hresync
    exact decodeEdw_of_encode_eq rfl rfl
  · exact decodeEdw_of_encode_eq ((preErrorOk_iff cls edge).2 ⟨htwo, hhalf, hresync⟩) rfl

theorem decodeEdw_pack_data (cls : BitVec 3) (edge wait : Bool) :
    decodeEdw (edwPack 0b10 cls edge wait) =
      if cls = 0b001 then (if wait = true then .dataRepeat edge else .dataHalf edge)
      else if cls = 0b010 then (if wait = true then .dataPairError edge else .dataToggle edge)
      else .dataClassError cls edge wait := by
  split_ifs with hone hw htwo hw
  · subst hone hw
    exact decodeEdw_of_encode_eq rfl rfl
  · obtain rfl := Bool.eq_false_of_not_eq_true hw
    subst hone
    exact decodeEdw_of_encode_eq rfl rfl
  · subst htwo hw
    exact decodeEdw_of_encode_eq rfl rfl
  · obtain rfl := Bool.eq_false_of_not_eq_true hw
    subst htwo
    exact decodeEdw_of_encode_eq rfl rfl
  · exact decodeEdw_of_encode_eq ((dataClassErrorOk_iff cls).2 ⟨hone, htwo⟩) rfl

theorem decodeEdw_pack_reserved (cls : BitVec 3) (edge wait : Bool) :
    decodeEdw (edwPack 0b11 cls edge wait) = .reservedState cls edge wait :=
  decodeEdw_of_encode_eq rfl rfl

/-! The rows of R75 against each other. -/

/-- Two rows ask different values of a bit that both look at. -/
def EdwRow.Clash (r r' : EdwRow) : Prop := r.pattern &&& r'.mask ≠ r'.pattern &&& r.mask

/-- No word satisfies both of two rows that clash. -/
theorem EdwRow.Clash.not_hit {r r' : EdwRow} (h : r.Clash r') {w : Edw} (hr : r.hit w = true) : ¬ r'.hit w = true := by
  intro hr'
  have hw : w &&& r.mask = r.pattern := eq_of_beq hr
  have hw' : w &&& r'.mask = r'.pattern := eq_of_beq hr'
  refine h ?_
  rw [← hw, ← hw', BitVec.and_assoc, BitVec.and_assoc, BitVec.and_comm r.mask]

/-- R75: "The rows of one priority never overlap." -/
theorem edwTable_clash : edwTable.Pairwise fun r r' => r.prio = r'.prio → r.Clash r' := by
  unfold EdwRow.Clash
  decide

/-- Of the rows of one priority at most one matches a word. -/
theorem length_hits_le_one (prio : Nat) (w : Edw) :
    (edwTable.filter fun r => r.prio == prio && r.hit w).length ≤ 1 := by
  have hclash := edwTable_clash.filter fun r => r.prio == prio && r.hit w
  have hmem : ∀ r ∈ edwTable.filter fun r => r.prio == prio && r.hit w, r.prio = prio ∧ r.hit w = true := by
    simp
  generalize (edwTable.filter fun r => r.prio == prio && r.hit w) = hits at hclash hmem
  match hits with
  | [] => exact Nat.zero_le 1
  | [_] => exact Nat.le_refl 1
  | r :: r' :: rest =>
    obtain ⟨hp, hr⟩ := hmem r (by simp)
    obtain ⟨hp', hr'⟩ := hmem r' (by simp)
    have h : r.Clash r' := List.rel_of_pairwise_cons hclash (List.mem_cons_self ..) (hp.trans hp'.symm)
    exact absurd hr' (h.not_hit hr)

/-- Every decode word has a row: each state code has one that looks at nothing else. -/
theorem edwTable_total (w : Edw) : (edwTable.any fun r => r.hit w) = true := by
  revert w; decide

/-- Settles O6: the four states' columns, the disjointness of the rows of one priority, and the totality of the table. -/
theorem operationMapByColumns : Obligations.OperationMapByColumns :=
  ⟨fun cls edge wait => ⟨decodeEdw_pack_idle cls edge wait, decodeEdw_pack_preamble cls edge wait,
      decodeEdw_pack_data cls edge wait, decodeEdw_pack_reserved cls edge wait⟩,
    fun w => ⟨length_hits_le_one 0 w, length_hits_le_one 1 w, edwTable_total w⟩⟩

end Sys2Proof
end

section
/-! PROOFS. The classifier: what TIMESTAMP, EDGE and CLASSIFY give, and which intervals each class holds (40_classifier.md). -/

namespace Sys2Proof.Machine

/-! The three operations that run for every accepted event. -/

theorem exec_timestamp (ev : Evw) (s : State) :
    exec (.timestamp ev) s = .next { s with wires := { s.wires with dt := interval s.prevTs ev.ts }, prevTs := ev.ts } :=
  rfl

theorem exec_edgeBit (ev : Evw) (s : State) :
    exec (.edgeBit ev) s = .next { s with wires := { s.wires with edge := !ev.level } } := rfl

theorem exec_classify (ev : Evw) (s : State) :
    exec (.classify ev) s = .next { s with wires := { s.wires with cls := classOf s.cfg s.wires.dt } } := rfl

/-! The interval and `PREV_TS` (R100). -/

theorem toNat_interval (prev ts : Ts) : (interval prev ts).toNat = (ts.toNat + 2 ^ 32 - prev.toNat) % 2 ^ 32 := by
  rw [interval, BitVec.toNat_sub]
  congr 1
  omega

/-- The operation selected never writes `PREV_TS`: after the step it is what TIMESTAMP wrote. -/
theorem decoderStep_prevTs {ev : Evw} {s t : State} (h : decoderStep ev s = .next t) : t.prevTs = ev.ts := by
  obtain ⟨u, hu, rfl⟩ := (decoderStep_eq_next ev s t).1 h
  rw [leaveStep_prevTs, (exec_psm_frame _ _ _ hu).prevTs]

/-- Settles O7: the modular difference, and the frame of the operations of the PSM. -/
theorem timestampResultAndUnconditionalUpdate : Obligations.TimestampResultAndUnconditionalUpdate := by
  refine ⟨fun ev s => ⟨_, exec_timestamp ev s, toNat_interval s.prevTs ev.ts, rfl⟩, fun s t w hacc h => ?_⟩
  rw [step_of_accepts w s hacc] at h
  exact decoderStep_prevTs h

/-! The fields of the decode word (30_encoding.md R74). -/

theorem edwCls_edwWith (s : State) (k : PulseClass) (edge : Bool) : edwCls (edwWith s k edge) = k.code :=
  edwCls_pack _ _ _ _

theorem edwEdge_edwWith (s : State) (k : PulseClass) (edge : Bool) : edwEdge (edwWith s k edge) = edge :=
  edwEdge_pack _ _ _ _

/-- Settles O8: the operation's result, and the edge field of the decode word. -/
theorem edgeResult : Obligations.EdgeResult := fun ev s =>
  ⟨exec_edgeBit ev s, edwEdge_edwWith s _ (!ev.level)⟩

/-! The class of an interval (R102 to R104). -/

/-- The priority chain in plain numbers, whatever the configuration. -/
theorem classOf_eq_chain (c : Thresholds) (dt : Ts) :
    classOf c dt =
      if dt.toNat < c.oneMin.toNat then .short
      else if dt.toNat ≤ c.oneMax.toNat then .oneClock
      else if dt.toNat ≤ c.twoMax.toNat then .twoClock
      else if c.twentyMin.toNat ≤ dt.toNat ∧ dt.toNat ≤ c.twentyMax.toNat then .twentyClock
      else .long := by
  simp only [classOf, BitVec.lt_def, BitVec.le_def]

/-- The five intervals of R102, one for each class. -/
def ClassInterval (c : Thresholds) (dt : Nat) : PulseClass → Prop
  | .short => dt < c.oneMin.toNat
  | .oneClock => c.oneMin.toNat ≤ dt ∧ dt ≤ c.oneMax.toNat
  | .twoClock => c.oneMax.toNat < dt ∧ dt ≤ c.twoMax.toNat
  | .twentyClock => c.twentyMin.toNat ≤ dt ∧ dt ≤ c.twentyMax.toNat
  | .long => (c.twoMax.toNat < dt ∧ dt < c.twentyMin.toNat) ∨ c.twentyMax.toNat < dt

/-- The five intervals leave no number out, whatever the configuration. -/
theorem exists_classInterval (c : Thresholds) (dt : Nat) : ∃ k, ClassInterval c dt k := by
  rcases Nat.lt_or_ge dt c.oneMin.toNat with hshort | hone
  · exact ⟨.short, hshort⟩
  rcases Nat.lt_or_ge c.oneMax.toNat dt with hone' | hone'
  · rcases Nat.lt_or_ge c.twoMax.toNat dt with htwo | htwo
    · rcases Nat.lt_or_ge dt c.twentyMin.toNat with hgap | htwenty
      · exact ⟨.long, .inl ⟨htwo, hgap⟩⟩
      · rcases Nat.lt_or_ge c.twentyMax.toNat dt with hlong | htwenty'
        · exact ⟨.long, .inr hlong⟩
        · exact ⟨.twentyClock, htwenty, htwenty'⟩
    · exact ⟨.twoClock, hone', htwo⟩
  · exact ⟨.oneClock, hone, hone'⟩

/-- The order of the thresholds keeps the tests before a class's own from taking its interval. -/
theorem classOf_of_classInterval {c : Thresholds} (hwf : c.wf = true) {dt : Ts} {k : PulseClass}
    (h : ClassInterval c dt.toNat k) : classOf c dt = k := by
  obtain ⟨-, hone, honeTwo, htwoTwenty, htwenty, -⟩ := wf_order c hwf
  cases k with
  | short => exact classOf_short c dt h
  | oneClock => exact classOf_oneClock c dt h.1 h.2
  | twoClock =>
    obtain ⟨hlo, hhi⟩ := h
    exact classOf_twoClock c dt (by omega) hlo hhi
  | twentyClock =>
    obtain ⟨hlo, hhi⟩ := h
    rw [classOf_above c dt (by omega) (by omega) (by omega), if_pos ⟨hlo, hhi⟩]
  | long =>
    have habove : c.twoMax.toNat < dt.toNat ∧ ¬(c.twentyMin.toNat ≤ dt.toNat ∧ dt.toNat ≤ c.twentyMax.toNat) := by
      rcases h with ⟨hlo, hhi⟩ | hlong <;> omega
    rw [classOf_above c dt (by omega) (by omega) habove.1, if_neg habove.2]

/-- R102: under a well-formed configuration a class is given on exactly its interval. -/
theorem classOf_eq_iff {c : Thresholds} (hwf : c.wf = true) (dt : Ts) (k : PulseClass) :
    classOf c dt = k ↔ ClassInterval c dt.toNat k := by
  refine ⟨?_, classOf_of_classInterval hwf⟩
  rintro rfl
  obtain ⟨k, hk⟩ := exists_classInterval c dt.toNat
  rwa [classOf_of_classInterval hwf hk]

/-- Settles O9: the chain, each class's interval, and the class field of the decode word. -/
theorem classifyResult : Obligations.ClassifyResult := by
  intro ev s
  have intervals (hwf : s.cfg.wf = true) := classOf_eq_iff hwf s.wires.dt
  exact ⟨_, exec_classify ev s, classOf_eq_chain s.cfg s.wires.dt,
    fun hwf => ⟨intervals hwf .short, intervals hwf .oneClock, intervals hwf .twoClock, intervals hwf .twentyClock,
      intervals hwf .long⟩,
    edwCls_edwWith s _⟩

/-- Settles O10: a function's value is unique, and each of the five points lies in its class's interval. -/
theorem everyClassIsReached : Obligations.EveryClassIsReached := by
  refine ⟨fun c dt => existsUnique_eq', fun c hwf => ?_⟩
  obtain ⟨hpos, hone, honeTwo, -, htwenty, hmax⟩ := wf_order c hwf
  have reached {dt : Ts} {k : PulseClass} (h : ClassInterval c dt.toNat k) := classOf_of_classInterval hwf h
  exact ⟨reached hpos, reached ⟨le_rfl, hone⟩, reached ⟨honeTwo, le_rfl⟩, reached ⟨le_rfl, htwenty⟩,
    reached (.inr hmax)⟩

/-- The tests before TwentyClock's have failed, that of `TWO_MAX` among them. -/
theorem twoMax_lt_of_twentyClock {c : Thresholds} {dt : Ts} (h : classOf c dt = .twentyClock) :
    c.twoMax.toNat < dt.toNat ∧ c.twentyMin.toNat ≤ dt.toNat ∧ dt.toNat ≤ c.twentyMax.toNat := by
  rw [classOf_eq_chain] at h
  split_ifs at h with hshort hone htwo hwindow
  exact ⟨Nat.lt_of_not_le htwo, hwindow⟩

/-- Settles O11: the failed test of `TWO_MAX`, and the lower part of Long's interval. -/
theorem gapBelowTwentyClockIsLong : Obligations.GapBelowTwentyClockIsLong :=
  ⟨fun _ _ => twoMax_lt_of_twentyClock, fun _ _ hwf hlo hhi => classOf_of_classInterval hwf (.inl ⟨hlo, hhi⟩)⟩

end Sys2Proof.Machine
end

section
/-! PROOFS. The operations of the protocol state machine one by one, in every state in which their slots exist (41_state_machine.md
sections 2 to 6). -/

namespace Sys2Proof.Machine

/-! The operations that write no slot. -/

theorem exec_idleSync (wait : Bool) (s : State) :
    exec (.idleSync wait) s = .next { s with bitCount := 0, waitCount := false, psm := .preamble } := rfl

theorem exec_idleStay (cls : BitVec 3) (edge wait : Bool) (s : State) : exec (.idleStay cls edge wait) s = .next s := rfl

theorem exec_preHalf (wait : Bool) (s : State) : exec (.preHalf wait) s = .next s := rfl

theorem exec_preResync (wait : Bool) (s : State) : exec (.preResync wait) s = .next s := rfl

theorem exec_preError (cls : BitVec 3) (edge wait : Bool) (s : State) :
    exec (.preError cls edge wait) s = .next (takeError .preambleError s) := rfl

theorem exec_dataHalf (edge : Bool) (s : State) : exec (.dataHalf edge) s = .next (setWait true s) := rfl

theorem exec_dataPairError (edge : Bool) (s : State) :
    exec (.dataPairError edge) s = .next (takeError .dataError s) := rfl

theorem exec_dataClassError (cls : BitVec 3) (edge wait : Bool) (s : State) :
    exec (.dataClassError cls edge wait) s = .next (takeError .dataError s) := rfl

theorem exec_reservedState (cls : BitVec 3) (edge wait : Bool) (s : State) :
    exec (.reservedState cls edge wait) s = .next (raiseFault .reservedState s) := rfl

theorem exec_completeRepeat (edge : Bool) (s : State) : exec (.completeRepeat edge) s = .next (completeFrame s) := rfl

theorem exec_completeToggle (edge : Bool) (s : State) : exec (.completeToggle edge) s = .next (completeFrame s) := rfl

/-! The two errors (60_exceptions.md R200, R201, R215). -/

theorem takeError_preambleError (s : State) :
    takeError .preambleError s =
      { s with psm := .idle, wires := { s.wires with status := .preambleError, dbgDerr := false } } := by
  have hderr : (s.params.hasDebug && EvStatus.preambleError == .dataError) = false := Bool.and_false _
  rw [takeError, report, hderr]

theorem takeError_dataError (s : State) :
    takeError .dataError s =
      { s with psm := .idle, wires := { s.wires with status := .dataError, dbgDerr := s.params.hasDebug } } := by
  have hderr : (s.params.hasDebug && EvStatus.dataError == .dataError) = s.params.hasDebug := Bool.and_true _
  rw [takeError, report, hderr]

/-- Settles O12: both operations are one assignment of the state. -/
theorem idleOperationResults : Obligations.IdleOperationResults :=
  fun cls edge wait s => ⟨exec_idleSync wait s, exec_idleStay cls edge wait s⟩

/-- Settles O14: PRE_ERROR takes the preamble error, which raises no strobe. -/
theorem preambleOperationResults : Obligations.PreambleOperationResults :=
  fun cls edge wait s => ⟨exec_preHalf wait s, exec_preResync wait s,
    (exec_preError cls edge wait s).trans (congrArg Host.Outcome.next (takeError_preambleError s))⟩

/-- Settles O15: the two errors take the data error, whose strobe is raised where it exists. -/
theorem dataHalfAndErrorResults : Obligations.DataHalfAndErrorResults :=
  fun cls edge wait s => ⟨exec_dataHalf edge s,
    (exec_dataPairError edge s).trans (congrArg Host.Outcome.next (takeError_dataError s)),
    (exec_dataClassError cls edge wait s).trans (congrArg Host.Outcome.next (takeError_dataError s))⟩

/-! The model fault (60_exceptions.md R207). -/

theorem mem_faults_raiseFault (f g : ModelFault) (s : State) :
    g ∈ (raiseFault f s).faults ↔ g ∈ s.faults ∨ g = f := by
  rw [raiseFault_faults]
  split_ifs with hmem
  · have hf : f ∈ s.faults := List.contains_iff_mem.1 hmem
    exact ⟨.inl, fun h => h.elim id fun hg => hg ▸ hf⟩
  · rw [List.mem_append, List.mem_singleton]

/-- Settles O21: `FAULTS` gains the one fault. -/
theorem reservedStateResult : Obligations.ReservedStateResult :=
  fun cls edge wait s => ⟨_, exec_reservedState cls edge wait s, rfl, fun f => mem_faults_raiseFault .reservedState f s⟩

/-! COMPLETE (41_state_machine.md R136). -/

theorem completeFrame_of_full (s : State) (hf : fifoFull s = true) : completeFrame s = s := by
  rcases completeFrame_cases s with ⟨-, h⟩ | ⟨-, -, h⟩ | ⟨-, hroom, -⟩
  · exact h
  · exact h
  · exact absurd (hroom.symm.trans hf) Bool.false_ne_true

theorem completeFrame_of_room (s : State) (h : 104 ≤ s.bitCount.toNat) (hf : fifoFull s = false) :
    completeFrame s = delivered (frameContent s.frame) s := by
  rcases completeFrame_cases s with ⟨hlt, -⟩ | ⟨-, hfull, -⟩ | ⟨-, -, hc⟩
  · omega
  · exact absurd (hf.symm.trans hfull) Bool.false_ne_true
  · exact hc

/-- Settles O18: both forms of the sub-step are `completeFrame`, by its three cases. -/
theorem completionSubStepResults : Obligations.CompletionSubStepResults := by
  intro edge s
  rw [exec_completeRepeat, exec_completeToggle]
  refine ⟨fun h => ?below, fun h hf => ?full, fun h hf => ?room⟩
  case below => rw [completeFrame_of_lt s h]; exact ⟨rfl, rfl⟩
  case full => rw [completeFrame_of_full s hf]; exact ⟨rfl, rfl⟩
  case room =>
    rw [completeFrame_of_room s h hf]
    exact ⟨_, _, rfl, rfl, rfl, getLsbD_frameContent s.frame⟩

/-! PRE_FIRST_PAIR (41_state_machine.md R125). -/

/-- The state after PRE_FIRST_PAIR's two writes. -/
def firstPairWritten (edge : Bool) (s : State) : State :=
  { s with
    frame := writeSlot (writeSlot s.frame (s.bitCount.toNat + 1) (!edge)) (s.bitCount.toNat + 2) edge,
    bitCount := s.bitCount + 1 + 1, psm := .data }

theorem exec_preFirstPair_of_le (edge wait : Bool) {s : State} (h : s.bitCount.toNat ≤ 101) :
    exec (.preFirstPair edge wait) s = .next (firstPairWritten edge s) := by
  have h1 : (s.bitCount + 1).toNat = s.bitCount.toNat + 1 := toNat_succ _ (by omega)
  have h2 : (s.bitCount + 1 + 1).toNat = s.bitCount.toNat + 2 := by rw [toNat_succ _ (by omega), h1]
  exact (execPreFirstPair_eq_next edge wait s _).2 ⟨by omega, by omega, by rw [h1, h2]; rfl⟩

theorem toNat_bitCount_firstPairWritten (edge : Bool) {s : State} (h : s.bitCount.toNat ≤ 101) :
    (firstPairWritten edge s).bitCount.toNat = s.bitCount.toNat + 2 := by
  have h1 : (s.bitCount + 1).toNat = s.bitCount.toNat + 1 := toNat_succ _ (by omega)
  rw [firstPairWritten, toNat_succ _ (by omega), h1]

/-- A write reads back in its own slot, and in no other (20_memory.md R50; slot 0 is hardwired). -/
theorem readSlot_writeSlot_of_lt (f : Frame) {i : Nat} (j : Nat) (b : Bool) (h0 : 0 < i) (h : i < 104) :
    readSlot (writeSlot f i b) j = if j = i then b else readSlot f j := by
  simp only [readSlot_writeSlot, h0, h, and_true]

theorem readSlot_firstPairWritten (edge : Bool) {s : State} (h : s.bitCount.toNat ≤ 101) (i : Nat) :
    readSlot (firstPairWritten edge s).frame i =
      if i = s.bitCount.toNat + 1 then !edge
      else if i = s.bitCount.toNat + 2 then edge else readSlot s.frame i := by
  rw [firstPairWritten, readSlot_writeSlot_of_lt _ _ _ (by omega) (by omega),
    readSlot_writeSlot_of_lt _ _ _ (by omega) (by omega)]
  by_cases h1 : i = s.bitCount.toNat + 1
  · have h2 : i ≠ s.bitCount.toNat + 2 := by omega
    rw [if_neg h2, if_pos h1, if_pos h1]
  · rw [if_neg h1, if_neg h1]

/-- Settles O13: the two writes one after the other. -/
theorem preFirstPairResult : Obligations.PreFirstPairResult := fun edge wait _ h =>
  ⟨_, exec_preFirstPair_of_le edge wait h, rfl, toNat_bitCount_firstPairWritten edge h,
    readSlot_firstPairWritten edge h⟩

/-! DATA_REPEAT and DATA_TOGGLE, the bit writes of Data (41_state_machine.md R131, R132). -/

/-- The bit write that repeats the previous bit, or the one that complements it. -/
def bitWriteOp : (flip : Bool) → (edge : Bool) → Instr
  | false, edge => .dataRepeat edge
  | true, edge => .dataToggle edge

/-- The bit that the write puts at `BIT_COUNT`. -/
def newBit (flip : Bool) (s : State) : Bool := xor (lastBit s) flip

theorem newBit_false (s : State) : newBit false s = lastBit s := Bool.xor_false _

theorem newBit_true (s : State) : newBit true s = !lastBit s := Bool.xor_true _

/-- Both operations are `dataWrite` of their bit wherever their slots exist; DATA_REPEAT clears `WAIT_COUNT`. -/
theorem exec_bitWriteOp (flip edge : Bool) {s : State} (h1 : 1 ≤ s.bitCount.toNat) (h2 : s.bitCount.toNat ≤ 103) :
    exec (bitWriteOp flip edge) s = .next (dataWrite (newBit flip s) (flip && s.waitCount) s) := by
  cases flip with
  | false =>
    change execDataRepeat edge s = _
    cases hb : completionBlocked s
    · rw [execDataRepeat_eq edge s hb (by omega) (by omega), dataWrite, hb, newBit_false]; rfl
    · rw [execDataRepeat, dataWrite, hb]; rfl
  | true =>
    change execDataToggle edge s = _
    cases hb : completionBlocked s
    · rw [execDataToggle_eq edge s hb (by omega) (by omega), dataWrite, hb, newBit_true]; rfl
    · rw [execDataToggle, dataWrite, hb]; rfl

/-- Below the last slot. -/
theorem exec_bitWriteOp_of_lt (flip edge : Bool) {s : State} (h1 : 1 ≤ s.bitCount.toNat) (h2 : s.bitCount.toNat ≤ 102) :
    exec (bitWriteOp flip edge) s = .next (appended (newBit flip s) (flip && s.waitCount) s) := by
  rw [exec_bitWriteOp flip edge h1 (by omega), dataWrite_of_lt _ _ (by omega)]

/-- At the last slot, with room. -/
theorem exec_bitWriteOp_of_room (flip edge : Bool) {s : State} (h : s.bitCount.toNat = 103) (hf : fifoFull s = false) :
    exec (bitWriteOp flip edge) s =
      .next (delivered (frameContent (writeSlot s.frame 103 (newBit flip s))) s) := by
  rw [exec_bitWriteOp flip edge (by omega) (by omega), dataWrite_of_room _ _ h hf]

/-- At the last slot, with no room. -/
theorem exec_bitWriteOp_of_full (flip edge : Bool) {s : State} (h : s.bitCount.toNat = 103) (hf : fifoFull s = true) :
    exec (bitWriteOp flip edge) s = .next s := by
  rw [exec_bitWriteOp flip edge (by omega) (by omega), dataWrite_of_full _ _ h hf]

theorem toNat_bitCount_appended (b wait : Bool) {s : State} (h : s.bitCount.toNat ≤ 102) :
    (appended b wait s).bitCount.toNat = s.bitCount.toNat + 1 :=
  toNat_succ _ (by omega)

theorem readSlot_appended (b wait : Bool) {s : State} (h1 : 1 ≤ s.bitCount.toNat) (h2 : s.bitCount.toNat ≤ 102)
    (i : Nat) : readSlot (appended b wait s).frame i = if i = s.bitCount.toNat then b else readSlot s.frame i :=
  readSlot_writeSlot_of_lt _ _ _ (by omega) (by omega)

/-- The frame delivered is the buffer's content with its last slot written. -/
theorem getLsbD_lastSlotWritten (f : Frame) (b : Bool) (i : Nat) :
    (frameContent (writeSlot f 103 b)).getLsbD i = if i = 103 then b else readSlot f i := by
  rw [getLsbD_frameContent, readSlot_writeSlot_of_lt _ _ _ (by decide) (by decide)]

theorem lastBit_of_last {s : State} (h : s.bitCount.toNat = 103) : lastBit s = readSlot s.frame 102 := by
  rw [lastBit, h]

/-- Settles O16: below the last slot both operations append their bit. -/
theorem dataBitWriteResults : Obligations.DataBitWriteResults := by
  intro edge s h1 h2
  refine ⟨⟨_, exec_bitWriteOp_of_lt false edge h1 h2, rfl, toNat_bitCount_appended _ _ h2, fun i => ?_⟩,
    ⟨_, exec_bitWriteOp_of_lt true edge h1 h2, rfl, toNat_bitCount_appended _ _ h2, fun i => ?_⟩⟩
  · rw [readSlot_appended _ _ h1 h2, newBit_false, lastBit]
  · rw [readSlot_appended _ _ h1 h2, newBit_true, lastBit]

/-- Settles O17: at the last slot, with room, both operations deliver the buffer's content with their bit in it. -/
theorem completingBitWriteResults : Obligations.CompletingBitWriteResults := by
  intro edge s h hf
  refine ⟨⟨_, _, exec_bitWriteOp_of_room false edge h hf, rfl, fun i => ?_⟩,
    ⟨_, _, exec_bitWriteOp_of_room true edge h hf, rfl, fun i => ?_⟩⟩
  · rw [getLsbD_lastSlotWritten, newBit_false, lastBit_of_last h]
  · rw [getLsbD_lastSlotWritten, newBit_true, lastBit_of_last h]

/-- Settles O19: at the last slot, with no room, both operations hold. -/
theorem completingWriteHoldsOnFullQueue : Obligations.CompletingWriteHoldsOnFullQueue := fun edge _ h hf =>
  ⟨exec_bitWriteOp_of_full false edge h hf, exec_bitWriteOp_of_full true edge h hf⟩

/-! Slot 2 (41_state_machine.md R138). -/

/-- The first Data write after PRE_FIRST_PAIR from `BIT_COUNT` 0 is at slot 2, and its bit is slot 1's or the complement. -/
theorem exec_bitWriteOp_firstPairWritten (flip edge e : Bool) {s : State} (h : s.bitCount = 0) :
    ∃ t, exec (bitWriteOp flip e) (firstPairWritten edge s) = .next t ∧
      readSlot t.frame 2 = xor (!edge) flip ∧ t.bitCount = 3 := by
  have hle : s.bitCount.toNat ≤ 101 := by rw [h]; decide
  have hcount : (firstPairWritten edge s).bitCount = 2 := by rw [firstPairWritten, h]; rfl
  have hread := readSlot_firstPairWritten edge hle
  have hbit : newBit flip (firstPairWritten edge s) = xor (!edge) flip := by
    rw [newBit, lastBit, hcount, hread, h]
    rfl
  refine ⟨_, exec_bitWriteOp_of_lt flip e (by rw [hcount]; decide) (by rw [hcount]; decide), ?_, ?_⟩
  · rw [readSlot_appended _ _ (by rw [hcount]; decide) (by rw [hcount]; decide), hcount, hbit]
    rfl
  · rw [appended, hcount]
    rfl

/-- Settles O34: the bit in slot 1 is the complement of the edge bit; DATA_TOGGLE complements it again, DATA_REPEAT keeps it. -/
theorem firstDataWriteRewritesSlotTwo : Obligations.FirstDataWriteRewritesSlotTwo := by
  intro edge wait e s u h hx
  have hle : s.bitCount.toNat ≤ 101 := by rw [h]; decide
  cases (exec_preFirstPair_of_le edge wait hle).symm.trans hx
  obtain ⟨t, ht, htoggle, hcount⟩ := exec_bitWriteOp_firstPairWritten true edge e h
  obtain ⟨r, hr, hrepeat, hcount'⟩ := exec_bitWriteOp_firstPairWritten false edge e h
  refine ⟨?_, ⟨t, ht, ?_, hcount⟩, ⟨r, hr, ?_, hcount'⟩⟩
  · rw [readSlot_firstPairWritten edge hle, h]
    rfl
  · rw [htoggle, Bool.xor_true, Bool.not_not]
  · rw [hrepeat, Bool.xor_false]

end Sys2Proof.Machine
end

section
/-! PROOFS. Whole decoder steps on an accepted event, by the state (41_state_machine.md sections 1 to 6), and the steps that hold
(R137). -/

namespace Sys2Proof.Machine

/-! The step on an accepted event. -/

/-- R120: the step runs the operation selected on the sensed state, and records it under that operation. -/
theorem step_of_accepts_eq {w : EvWord} {s : State} (h : accepts w s = true) :
    step s = andThen (exec (selected (Evw.ofWord w) s) (sensed (Evw.ofWord w) s)) fun u =>
      .next (leaveStep (Evw.ofWord w) (selected (Evw.ofWord w) s) u) := by
  rw [step_of_accepts w s h, decoderStep_eq]
  change andThen (exec (selected (Evw.ofWord w) s) (sensed (Evw.ofWord w) s)) _ = _
  cases hx : exec (selected (Evw.ofWord w) s) (sensed (Evw.ofWord w) s) with
  | next u =>
    have hedw : u.wires.edw = edwFor (Evw.ofWord w) s := (exec_psm_frame _ _ _ hx).edw
    rw [andThen_next, andThen_next, hedw]
    rfl
  | fault r => rfl
  | refused r => rfl

/-- Settles O1: the operation a decode word decodes to is the one selected. -/
theorem decoderStepRunsDecodedOperation : Obligations.DecoderStepRunsDecodedOperation := by
  intro s w i hacc hdec
  have hi : selected (Evw.ofWord w) s = i := Except.ok.inj hdec
  rw [step_of_accepts_eq hacc, hi]

/-- Where the operation selected answers u on the sensed state, the step answers u with its entry, which has u's report. -/
theorem step_of_exec {w : EvWord} {s u : State} {i : Instr} (hacc : accepts w s = true)
    (hi : selected (Evw.ofWord w) s = i) (hx : exec i (sensed (Evw.ofWord w) s) = .next u) :
    step s = .next (leaveStep (Evw.ofWord w) i u) ∧
      (leaveStep (Evw.ofWord w) i u).history = s.history ++ [entryFor (Evw.ofWord w) s u.wires.status] := by
  subst hi
  have hentry : entryOf (Evw.ofWord w) (selected (Evw.ofWord w) s) u = entryFor (Evw.ofWord w) s u.wires.status :=
    entryOf_eq_entryFor (s := { s with turns := s.turns.tail, events := s.events.tail }) hx
  have hist : u.history = s.history := (exec_psm_frame _ _ _ hx).history
  exact ⟨by rw [step_of_accepts_eq hacc, hx, andThen_next], by rw [leaveStep_history, hist, hentry]⟩

/-! Idle (R122 to R124). -/

/-- Settles O22: the one condition that selects IDLE_SYNC, and IDLE_STAY for every other event. -/
theorem idleStep : Obligations.IdleStep := by
  intro s w hacc hp
  have hsel := selected_of_idle (Evw.ofWord w) s hp
  by_cases hsync : classFor (Evw.ofWord w) s = .twentyClock ∧ (Evw.ofWord w).level = true
  · rw [if_pos hsync] at hsel
    obtain ⟨hstep, hist⟩ := step_of_exec hacc hsel (exec_idleSync _ _)
    exact ⟨_, hstep, hist, by rw [if_pos hsync]; rfl⟩
  · rw [if_neg hsync] at hsel
    obtain ⟨hstep, hist⟩ := step_of_exec hacc hsel (exec_idleStay _ _ _ _)
    exact ⟨_, hstep, hist, by rw [if_neg hsync]; rfl⟩

/-! Preamble (R125 to R128). -/

/-- From `BIT_COUNT` 0 the first pair is in slots 1 and 2. -/
theorem readSlot_firstPairWritten_zero (edge : Bool) {s : State} (h : s.bitCount = 0) (i : Nat) :
    readSlot (firstPairWritten edge s).frame i =
      if i = 1 then !edge else if i = 2 then edge else readSlot s.frame i := by
  rw [readSlot_firstPairWritten edge (by rw [h]; decide), h]
  rfl

/-- TwoClock in Preamble: PRE_FIRST_PAIR from `BIT_COUNT` 0. -/
theorem step_of_preamble_twoClock {w : EvWord} {s : State} (hacc : accepts w s = true) (hp : s.psm = .preamble)
    (hc : s.bitCount = 0) (hcls : classFor (Evw.ofWord w) s = .twoClock) :
    ∃ t, step s = .next t ∧
      t = { afterEvent (Evw.ofWord w) s t with frame := t.frame, bitCount := 2, psm := .data } ∧
      (∀ i, readSlot t.frame i =
        if i = 1 then (Evw.ofWord w).level else if i = 2 then !(Evw.ofWord w).level else readSlot s.frame i) ∧
      t.history = s.history ++ [entryFor (Evw.ofWord w) s .none] := by
  have hsel := selected_of_preamble (Evw.ofWord w) s hp
  rw [if_pos hcls] at hsel
  have hx := exec_preFirstPair_of_le (!(Evw.ofWord w).level) s.waitCount (s := sensed (Evw.ofWord w) s)
    (by change s.bitCount.toNat ≤ 101; rw [hc]; decide)
  obtain ⟨hstep, hist⟩ := step_of_exec hacc hsel hx
  have hcount : s.bitCount + 1 + 1 = 2 := by rw [hc]; rfl
  refine ⟨_, hstep, ?_, fun i => ?_, hist⟩
  · rw [← hcount]
    rfl
  · have hread := readSlot_firstPairWritten_zero (!(Evw.ofWord w).level) (s := sensed (Evw.ofWord w) s) hc i
    rwa [Bool.not_not] at hread

/-- OneClock with edge 1 and TwentyClock with edge 0 in Preamble: PRE_HALF and PRE_RESYNC. -/
theorem step_of_preamble_benign {w : EvWord} {s : State} (hacc : accepts w s = true) (hp : s.psm = .preamble)
    (hcls : (classFor (Evw.ofWord w) s = .oneClock ∧ (Evw.ofWord w).level = false) ∨
      (classFor (Evw.ofWord w) s = .twentyClock ∧ (Evw.ofWord w).level = true)) :
    ∃ t, step s = .next t ∧ t = afterEvent (Evw.ofWord w) s t ∧
      t.history = s.history ++ [entryFor (Evw.ofWord w) s .none] := by
  have hsel := selected_of_preamble (Evw.ofWord w) s hp
  rcases hcls with ⟨hcls, hlevel⟩ | ⟨hcls, hlevel⟩ <;> simp only [hcls, hlevel] at hsel
  · obtain ⟨hstep, hist⟩ := step_of_exec hacc hsel (exec_preHalf _ _)
    exact ⟨_, hstep, rfl, hist⟩
  · obtain ⟨hstep, hist⟩ := step_of_exec hacc hsel (exec_preResync _ _)
    exact ⟨_, hstep, rfl, hist⟩

/-- Every other event in Preamble: PRE_ERROR. -/
theorem step_of_preamble_error {w : EvWord} {s : State} (hacc : accepts w s = true) (hp : s.psm = .preamble)
    (hcls : classFor (Evw.ofWord w) s = .short ∨ classFor (Evw.ofWord w) s = .long ∨
      (classFor (Evw.ofWord w) s = .oneClock ∧ (Evw.ofWord w).level = true) ∨
      (classFor (Evw.ofWord w) s = .twentyClock ∧ (Evw.ofWord w).level = false)) :
    ∃ t, step s = .next t ∧ t = { afterEvent (Evw.ofWord w) s t with psm := .idle } ∧
      t.history = s.history ++ [entryFor (Evw.ofWord w) s .preambleError] := by
  have hsel : selected (Evw.ofWord w) s =
      .preError (classFor (Evw.ofWord w) s).code (!(Evw.ofWord w).level) s.waitCount := by
    rw [selected_of_preamble (Evw.ofWord w) s hp]
    rcases hcls with hcls | hcls | ⟨hcls, hlevel⟩ | ⟨hcls, hlevel⟩ <;> simp [*]
  obtain ⟨hstep, hist⟩ := step_of_exec hacc hsel (exec_preError _ _ _ _)
  exact ⟨_, hstep, rfl, hist⟩

/-- The classes of R125 to R128 leave no event in Preamble out. -/
theorem preamble_events_cases (k : PulseClass) (level : Bool) :
    k = .twoClock ∨ ((k = .oneClock ∧ level = false) ∨ (k = .twentyClock ∧ level = true)) ∨
      (k = .short ∨ k = .long ∨ (k = .oneClock ∧ level = true) ∨ (k = .twentyClock ∧ level = false)) := by
  cases k <;> cases level <;> decide

/-- Settles O23: one of the three lemmas above gives the step's state, and where its case applies each gives that state's form. -/
theorem preambleStep : Obligations.PreambleStep := by
  intro s w hacc hp hc _ ev
  have hstep : ∃ t, step s = .next t := by
    rcases preamble_events_cases (classFor ev s) ev.level with h | h | h
    · exact (step_of_preamble_twoClock hacc hp hc h).imp fun _ => And.left
    · exact (step_of_preamble_benign hacc hp h).imp fun _ => And.left
    · exact (step_of_preamble_error hacc hp h).imp fun _ => And.left
  obtain ⟨t, ht⟩ := hstep
  refine ⟨t, ht, fun h => ?twoClock, fun h => ?benign, fun h => ?error⟩
  case twoClock =>
    obtain ⟨t', ht', hform⟩ := step_of_preamble_twoClock hacc hp hc h
    cases ht.symm.trans ht'
    exact hform
  case benign =>
    obtain ⟨t', ht', hform⟩ := step_of_preamble_benign hacc hp h
    cases ht.symm.trans ht'
    exact hform
  case error =>
    obtain ⟨t', ht', hform⟩ := step_of_preamble_error hacc hp h
    cases ht.symm.trans ht'
    exact hform

/-! Data (R130 to R134). -/

/-- The events in Data that are errors: their operation is one of the two that take DataError. -/
theorem exec_selected_of_data_error {ev : Evw} {s : State} (u : State) (hp : s.psm = .data)
    (hcls : (classFor ev s = .twoClock ∧ s.waitCount = true) ∨ classFor ev s = .short ∨ classFor ev s = .twentyClock ∨
      classFor ev s = .long) : exec (selected ev s) u = .next (takeError .dataError u) := by
  rw [selected_of_data ev s hp]
  rcases hcls with ⟨hcls, hwait⟩ | hcls | hcls | hcls
  · simp only [hcls, hwait]
    exact exec_dataPairError _ u
  all_goals
    simp only [hcls]
    exact exec_dataClassError _ _ _ u

/-- Settles O24: DATA_HALF, and the two errors. -/
theorem dataStepWithoutWrite : Obligations.DataStepWithoutWrite := by
  intro s w hacc hp ev
  refine ⟨fun hcls hwait => ?half, fun hcls => ?error⟩
  case half =>
    have hsel : selected ev s = .dataHalf (!ev.level) := by
      rw [selected_of_data ev s hp, hcls, hwait]
      rfl
    obtain ⟨hstep, hist⟩ := step_of_exec hacc hsel (exec_dataHalf _ _)
    exact ⟨_, hstep, rfl, hist⟩
  case error =>
    obtain ⟨hstep, hist⟩ := step_of_exec hacc rfl (exec_selected_of_data_error _ hp hcls)
    exact ⟨_, hstep, rfl, hist⟩

/-- R131, R132: the events in Data whose operation is a bit write: OneClock with a half bit pending, TwoClock with none. -/
def WritesBit (flip : Bool) (cls : PulseClass) (wait : Bool) : Prop :=
  (cls = .oneClock ∧ wait = true ∧ flip = false) ∨ (cls = .twoClock ∧ wait = false ∧ flip = true)

theorem selected_of_writesBit {flip : Bool} {ev : Evw} {s : State} (hp : s.psm = .data)
    (h : WritesBit flip (classFor ev s) s.waitCount) : selected ev s = bitWriteOp flip (!ev.level) := by
  rw [selected_of_data ev s hp]
  rcases h with ⟨hcls, hwait, rfl⟩ | ⟨hcls, hwait, rfl⟩ <;> rw [hcls, hwait] <;> rfl

/-- After a bit write that completes no frame no half bit is pending: DATA_REPEAT clears it, DATA_TOGGLE finds none. -/
theorem WritesBit.wait_after {flip : Bool} {cls : PulseClass} {wait : Bool} (h : WritesBit flip cls wait) :
    (flip && wait) = false := by
  rcases h with ⟨-, -, rfl⟩ | ⟨-, rfl, -⟩
  · rfl
  · exact Bool.and_false flip

/-! The hold (R137). -/

theorem completes_iff (ev : Evw) (s : State) :
    completes ev s = true ↔ (∃ flip e, selected ev s = bitWriteOp flip e) ∧ s.bitCount.toNat = 103 := by
  have hlast : (s.bitCount == 103) = true ↔ s.bitCount.toNat = 103 :=
    beq_iff_eq.trans ⟨fun h => h ▸ rfl, fun h => BitVec.eq_of_toNat_eq h⟩
  unfold completes
  split
  · next e hsel => rw [hlast, hsel]; exact ⟨fun h => ⟨⟨false, e, rfl⟩, h⟩, And.right⟩
  · next e hsel => rw [hlast, hsel]; exact ⟨fun h => ⟨⟨true, e, rfl⟩, h⟩, And.right⟩
  · next hrepeat htoggle =>
    refine ⟨fun h => absurd h Bool.false_ne_true, ?_⟩
    rintro ⟨⟨flip, e, hsel⟩, -⟩
    cases flip
    · exact absurd hsel (hrepeat e)
    · exact absurd hsel (htoggle e)

theorem held_iff (ev : Evw) (s : State) :
    held ev s = true ↔
      (∃ flip e, selected ev s = bitWriteOp flip e) ∧ s.bitCount.toNat = 103 ∧ fifoFull s = true := by
  rw [held, Bool.and_eq_true, completes_iff, and_assoc]

theorem held_of_room (ev : Evw) {s : State} (h : fifoFull s = false) : held ev s = false := by
  rw [held, h, Bool.and_false]

/-- An accepted event that completes a frame finds room for it. -/
theorem fifoFull_of_accepts {w : EvWord} {s : State} {flip e : Bool} (hacc : accepts w s = true)
    (hsel : selected (Evw.ofWord w) s = bitWriteOp flip e) (h : s.bitCount.toNat = 103) : fifoFull s = false := by
  obtain ⟨-, -, -, -, hheld⟩ := (accepts_iff w s).1 hacc
  refine Bool.eq_false_of_not_eq_true fun hf => ?_
  exact Bool.false_ne_true (hheld.symm.trans ((held_iff _ _).2 ⟨⟨flip, e, hsel⟩, h, hf⟩))

/-- Settles O25: below the last slot the bit is appended; at the last slot, where the event was accepted, there is room, and the frame is
delivered. -/
theorem dataStepWithWrite : Obligations.DataStepWithWrite := by
  intro s w flip hacc hp h1 hwrites ev bit
  have hsel : selected ev s = bitWriteOp flip (!ev.level) := selected_of_writesBit hp hwrites
  have hwait : (flip && s.waitCount) = false := WritesBit.wait_after hwrites
  refine ⟨fun h2 => ?append, fun h => ?deliver⟩
  case append =>
    obtain ⟨hstep, hist⟩ := step_of_exec hacc hsel
      (exec_bitWriteOp_of_lt flip (!ev.level) (s := sensed ev s) h1 h2)
    exact ⟨_, hstep, by rw [← hwait]; rfl,
      readSlot_appended (newBit flip s) (flip && s.waitCount) (s := sensed ev s) h1 h2, hist⟩
  case deliver =>
    have hroom : fifoFull s = false := fifoFull_of_accepts hacc hsel h
    obtain ⟨hstep, hist⟩ := step_of_exec hacc hsel
      (exec_bitWriteOp_of_room flip (!ev.level) (s := sensed ev s) h hroom)
    exact ⟨_, _, hstep, rfl, getLsbD_lastSlotWritten s.frame bit, hist⟩

/-! The reserved state (R135). -/

/-- Settles O26: an accepted event found `FAULTS` empty, so the fault is its only element afterwards. -/
theorem reservedStateStep : Obligations.ReservedStateStep := by
  intro s w hacc hp
  obtain ⟨-, -, -, hfaults, -⟩ := (accepts_iff w s).1 hacc
  have hraised : (raiseFault .reservedState (sensed (Evw.ofWord w) s)).faults = [.reservedState] := by
    have hempty : (sensed (Evw.ofWord w) s).faults = [] := hfaults
    rw [raiseFault_faults, hempty]
    rfl
  obtain ⟨hstep, hist⟩ := step_of_exec hacc (selected_of_reserved (Evw.ofWord w) s hp) (exec_reservedState _ _ _ _)
  exact ⟨_, hstep, by rw [← hraised]; rfl, hist⟩

/-! A held decoder's turn (R137, 20_memory.md R58). -/

theorem decoderTurn_of_held {s : State} {w : EvWord} {rest : List EvWord} (he : s.events = w :: rest)
    (h : held (Evw.ofWord w) s = true) : decoderTurn s = .next s := by
  refine (decoderTurn_eq_next s s).2 (.inl ⟨rfl, fun w' rest' he' => ?_⟩)
  obtain ⟨rfl, -⟩ := List.cons.inj (he.symm.trans he')
  rw [enabled, h, Bool.not_true, Bool.and_false]

theorem step_of_held {s : State} {w : EvWord} {rest : List EvWord} (hm : decoderMoves s = true)
    (hwf : s.cfg.wf = true) (hf : s.faults = []) (he : s.events = w :: rest) (h : held (Evw.ofWord w) s = true) :
    step s = .next { s with turns := s.turns.tail } := by
  rw [step_of_decoderMoves hm hf, guardLaunch_of_wf hwf]
  exact decoderTurn_of_held (s := { s with turns := s.turns.tail }) he h

/-- Settles O27: the bit writes are DATA_REPEAT and DATA_TOGGLE, a full queue has a depth; a held event is not enabled. -/
theorem heldStepChangesNothing : Obligations.HeldStepChangesNothing := by
  refine ⟨fun ev s => ?_, fun s w rest => step_of_held⟩
  rw [held_iff, fifoFull_eq_true, Bool.exists_bool]
  rfl

end Sys2Proof.Machine
end

section
/-! PROOFS. A held decoder: the turns that leave it held, a hang, and the turns that end a hold (41_state_machine.md R137,
70_reset_and_hazards.md R240). -/

namespace Sys2Proof.Machine

/-- A run goes on from the state that its first step answers. -/
theorem run_succ_of_step {s u : State} (n : Nat) (h : step s = .next u) :
    Host.Core.run Sys2Proof.core (n + 1) s = Host.Core.run Sys2Proof.core n u := by
  have hcore : Sys2Proof.core.step s = .next u := h
  simp only [Host.Core.run, hcore]

theorem isHeld_iff (s : State) :
    isHeld s = true ↔ ∃ w rest, s.events = w :: rest ∧ held (Evw.ofWord w) s = true := by
  unfold isHeld
  cases s.events <;> simp

theorem isHeld_of_room {s : State} (h : fifoFull s = false) : isHeld s = false := by
  refine Bool.eq_false_of_not_eq_true fun hheld => ?_
  obtain ⟨w, rest, -, hw⟩ := (isHeld_iff s).1 hheld
  exact Bool.false_ne_true ((held_of_room _ h).symm.trans hw)

/-! The turns that leave the hold. -/

/-- The hold does not depend on the turns, on the events behind the one offered, or on the FI. -/
theorem isHeld_waiting {s : State} {events : List EvWord} (turns : List Turn) (fi : FiPorts) (h : isHeld s = true)
    (hevents : s.events <+: events) : isHeld { s with turns := turns, events := events, fi := fi } = true := by
  obtain ⟨w, rest, he, hw⟩ := (isHeld_iff s).1 h
  obtain ⟨more, rfl⟩ := hevents
  exact (isHeld_iff _).2 ⟨w, rest ++ more, by rw [he]; rfl, hw⟩

/-- An operation of the interpreter drives the FI's ports and nothing else (10_state.md R34). -/
theorem exec_interpreter {w : ConsumerWord} (s : State) (hw : w ≠ .pop) :
    ∃ fi, exec (decodeConsumer w) s = .next { s with fi := fi } := by
  cases w with
  | pop => exact absurd rfl hw
  | nibblePack f => exact ⟨_, rfl⟩
  | digitMap v => simp only [decodeConsumer, decodeNib]; split_ifs <;> exact ⟨_, rfl⟩
  | tempDecode p => simp only [decodeConsumer, decodePsel]; split_ifs <;> exact ⟨_, rfl⟩
  | fiOutputs f => exact ⟨_, rfl⟩

theorem mayLift_consumer_eq_false {s : State} {w : ConsumerWord} (h : mayLift s (.consumer w) = false) : w ≠ .pop := by
  rintro rfl
  exact Bool.false_ne_true h.symm

theorem mayLift_cfg_eq_false {s : State} {c : Thresholds} (h : mayLift s (.cfg c) = false) : c = s.cfg := by
  simpa [mayLift] using h

/-- The machine goes on over a turn that cannot end the hold, and the turn leaves the decoder and the queue as they are. -/
theorem step_of_waiting {s : State} (hheld : isHeld s = true) (hwf : s.cfg.wf = true) (hf : s.faults = [])
    (hturn : ∀ t rest, s.turns = t :: rest → mayLift s t = false) :
    ∃ events fi, s.events <+: events ∧
      step s = .next { s with turns := s.turns.tail, events := events, fi := fi } := by
  obtain ⟨w, more, he, hw⟩ := (isHeld_iff s).1 hheld
  have decoder (hm : decoderMoves s = true) : ∃ events fi, s.events <+: events ∧
      step s = .next { s with turns := s.turns.tail, events := events, fi := fi } :=
    ⟨s.events, s.fi, List.prefix_rfl, step_of_held hm hwf hf he hw⟩
  cases ht : s.turns with
  | nil => rw [← ht]; exact decoder (by rw [decoderMoves, ht])
  | cons t rest =>
    have hlift := hturn t rest ht
    cases t with
    | decoder => rw [← ht]; exact decoder (by rw [decoderMoves, ht])
    | offer w => exact ⟨_, _, List.prefix_append s.events [w], step_of_offer ht hwf⟩
    | consumer w =>
      obtain ⟨fi, hx⟩ := exec_interpreter { s with turns := rest } (mayLift_consumer_eq_false hlift)
      exact ⟨s.events, fi, List.prefix_rfl, (step_of_consumer ht hwf).trans hx⟩
    | interpret =>
      obtain ⟨fi, hx⟩ := exec_interpreter (w := .fiOutputs s.fi.frame) { s with turns := rest } ConsumerWord.noConfusion
      exact ⟨s.events, fi, List.prefix_rfl, (step_of_interpret ht hwf).trans hx⟩
    | reset => exact absurd hlift.symm Bool.false_ne_true
    | cfg c =>
      obtain rfl := mayLift_cfg_eq_false hlift
      refine ⟨s.events, s.fi, List.prefix_rfl, ?_⟩
      rw [step_of_cfg ht]
      exact (configure_eq_next s.cfg _ _).2 ⟨hwf, fun _ _ => rfl, rfl⟩

/-! A hang. -/

theorem hung_iff (s : State) : hung s = true ↔ isHeld s = true ∧ ∀ t ∈ s.turns, mayLift s t = false := by
  simp only [hung, Bool.and_eq_true, Bool.not_eq_true', List.any_eq_false, Bool.not_eq_true]

/-- A step of a hung machine takes a turn, and leaves it hung. -/
theorem step_of_hung {s : State} (h : hung s = true) (hwf : s.cfg.wf = true) (hf : s.faults = []) :
    ∃ events fi, s.events <+: events ∧
      step s = .next { s with turns := s.turns.tail, events := events, fi := fi } ∧
      hung { s with turns := s.turns.tail, events := events, fi := fi } = true := by
  obtain ⟨hheld, hturns⟩ := (hung_iff s).1 h
  obtain ⟨events, fi, hevents, hstep⟩ :=
    step_of_waiting hheld hwf hf fun t rest ht => hturns t (ht ▸ List.mem_cons_self ..)
  have hheld' := isHeld_waiting s.turns.tail fi hheld hevents
  exact ⟨events, fi, hevents, hstep, (hung_iff _).2 ⟨hheld', fun t ht => hturns t (List.mem_of_mem_tail ht)⟩⟩

/-- Any number of steps of a hung machine only uses up its turns. -/
theorem run_of_hung (n : Nat) {s : State} (h : hung s = true) (hwf : s.cfg.wf = true) (hf : s.faults = []) :
    ∃ turns events fi, s.events <+: events ∧
      Host.Core.run Sys2Proof.core n s = .next { s with turns := turns, events := events, fi := fi } ∧
      hung { s with turns := turns, events := events, fi := fi } = true := by
  induction n generalizing s with
  | zero => exact ⟨s.turns, s.events, s.fi, List.prefix_rfl, rfl, h⟩
  | succ n ih =>
    obtain ⟨events, fi, hevents, hstep, hhung⟩ := step_of_hung h hwf hf
    obtain ⟨turns', events', fi', hevents', hrun, hhung'⟩ := ih hhung hwf hf
    exact ⟨turns', events', fi', hevents.trans hevents', (run_succ_of_step n hstep).trans hrun, hhung'⟩

/-- With no turn left a held decoder's step is the identity. -/
theorem run_of_held_last (n : Nat) {s : State} (hheld : isHeld s = true) (hwf : s.cfg.wf = true) (hf : s.faults = [])
    (ht : s.turns = []) : Host.Core.run Sys2Proof.core n s = .next s := by
  obtain ⟨w, rest, he, hw⟩ := (isHeld_iff s).1 hheld
  have hsame : { s with turns := s.turns.tail } = s := by rw [ht, List.tail_nil, ← ht]
  have hstep : step s = .next s := by
    rw [step_of_held (by rw [decoderMoves, ht]) hwf hf he hw, hsame]
  induction n with
  | zero => rfl
  | succ n ih => rw [run_succ_of_step n hstep, ih]

/-- Settles O29: `run_of_hung`, and `run_of_held_last` where no turn is left. -/
theorem hungMachineNeverMoves : Obligations.HungMachineNeverMoves := by
  intro s n h hwf hf
  obtain ⟨hheld, -⟩ := (hung_iff s).1 h
  obtain ⟨turns, events, fi, hevents, hrun, hhung⟩ := run_of_hung n h hwf hf
  exact ⟨⟨_, hrun, hhung, ⟨rfl, rfl, rfl, rfl, rfl⟩, rfl, rfl, rfl, rfl, hevents⟩, run_of_held_last n hheld hwf hf⟩

/-! The turns that end a hold. -/

/-- From a full queue within its well-formed depth a pop makes room, and takes a frame to the consumer (20_memory.md R57, R58). -/
theorem popFrame_of_full {s : State} (hb : queueBounded s) (hp : s.params.wf = true) (hfull : fifoFull s = true) :
    ∃ f rest, popFrame s = { s with outFifo := rest, popped := s.popped ++ [f], fi := { s.fi with frame := f } } ∧
      fifoFull (popFrame s) = false := by
  obtain ⟨d, hd, hle⟩ := (fifoFull_eq_true s).1 hfull
  have hpos : 1 ≤ d := by simpa [Params.wf, hd] using hp
  have hlen := hb d hd
  cases hq : s.outFifo with
  | nil => rw [hq, List.length_nil] at hle; omega
  | cons f rest =>
    rw [hq, List.length_cons] at hlen
    rw [popFrame_cons s f rest hq]
    refine ⟨f, rest, rfl, Bool.eq_false_of_not_eq_true fun hf => ?_⟩
    obtain ⟨d', hd', hle'⟩ := (fifoFull_eq_true _).1 hf
    obtain rfl : d = d' := Option.some.inj (hd.symm.trans hd')
    change d ≤ rest.length at hle'
    omega

theorem fifoFull_of_held {ev : Evw} {s : State} (h : held ev s = true) : fifoFull s = true := by
  obtain ⟨-, -, hfull⟩ := (held_iff ev s).1 h
  exact hfull

theorem step_of_pop {s : State} {rest : List Turn} (ht : s.turns = .consumer .pop :: rest) (hwf : s.cfg.wf = true) :
    step s = .next (popFrame { s with turns := rest }) := step_of_consumer ht hwf

/-- Settles O28: after the pop there is room, and nothing that selects the operation has changed. -/
theorem popLiftsTheHold : Obligations.PopLiftsTheHold := by
  intro s w rest ts hb hp hwf hf he hheld ht
  obtain ⟨f, q, hpop, hroom⟩ :=
    popFrame_of_full (s := { s with turns := .decoder :: ts }) hb hp (fifoFull_of_held hheld)
  refine ⟨_, step_of_pop ht hwf, ?_⟩
  rw [hpop] at hroom ⊢
  exact ⟨(accepts_iff _ _).2 ⟨rfl, ⟨rest, he⟩, hwf, hf, held_of_room _ hroom⟩, rfl, rfl⟩

/-- RESET empties the queue and the buffer, so nothing is held after it (70_reset_and_hazards.md R230). -/
theorem isHeld_resetCore (s : State) : isHeld (resetCore s) = false := by
  refine Bool.eq_false_of_not_eq_true fun h => ?_
  obtain ⟨w, rest, -, hw⟩ := (isHeld_iff _).1 h
  obtain ⟨-, hcount, -⟩ := (held_iff _ _).1 hw
  rw [resetCore_bitCount] at hcount
  exact absurd hcount (by decide)

/-- A turn that may lift the hold, and is no change of `CFG`, does lift it. -/
theorem step_of_mayLift {s : State} {t : Turn} {rest : List Turn} (hb : queueBounded s) (hp : s.params.wf = true)
    (hwf : s.cfg.wf = true) (hheld : isHeld s = true) (ht : s.turns = t :: rest)
    (hcfg : ∀ c, t = .cfg c → c = s.cfg) (hlift : mayLift s t = true) : ∃ u, step s = .next u ∧ isHeld u = false := by
  cases t with
  | decoder => exact absurd hlift Bool.false_ne_true
  | offer w => exact absurd hlift Bool.false_ne_true
  | interpret => exact absurd hlift Bool.false_ne_true
  | reset => exact ⟨_, step_of_reset ht, isHeld_resetCore _⟩
  | cfg c => simp [mayLift, hcfg c rfl] at hlift
  | consumer w =>
    cases w with
    | pop =>
      obtain ⟨w, more, -, hw⟩ := (isHeld_iff s).1 hheld
      obtain ⟨f, q, -, hroom⟩ := popFrame_of_full (s := { s with turns := rest }) hb hp (fifoFull_of_held hw)
      exact ⟨_, step_of_pop ht hwf, isHeld_of_room hroom⟩
    | nibblePack f => exact absurd hlift Bool.false_ne_true
    | digitMap v => exact absurd hlift Bool.false_ne_true
    | tempDecode p => exact absurd hlift Bool.false_ne_true
    | fiOutputs f => exact absurd hlift Bool.false_ne_true

/-- The turns are taken one by one up to the first that lifts the hold. -/
theorem exists_run_not_held {turns : List Turn} {s : State} (ht : s.turns = turns) (hb : queueBounded s)
    (hp : s.params.wf = true) (hwf : s.cfg.wf = true) (hf : s.faults = []) (hheld : isHeld s = true)
    (hcfg : ∀ c, Turn.cfg c ∈ turns → c = s.cfg) (hlift : ∃ t ∈ turns, mayLift s t = true) :
    ∃ n t, Host.Core.run Sys2Proof.core n s = .next t ∧ isHeld t = false := by
  induction turns generalizing s with
  | nil => obtain ⟨t, hmem, -⟩ := hlift; cases hmem
  | cons t rest ih =>
    cases hfirst : mayLift s t with
    | true =>
      have hcfg' : ∀ c, t = .cfg c → c = s.cfg := fun c hc => hcfg c (hc ▸ List.mem_cons_self ..)
      obtain ⟨u, hstep, hu⟩ := step_of_mayLift hb hp hwf hheld ht hcfg' hfirst
      exact ⟨1, u, run_succ_of_step 0 hstep, hu⟩
    | false =>
      have hturn : ∀ t' rest', s.turns = t' :: rest' → mayLift s t' = false := by
        intro t' rest' ht'
        obtain ⟨rfl, -⟩ := List.cons.inj (ht.symm.trans ht')
        exact hfirst
      obtain ⟨events, fi, hevents, hstep⟩ := step_of_waiting hheld hwf hf hturn
      have hlift' : ∃ t' ∈ rest, mayLift s t' = true := by
        obtain ⟨t', hmem, ht'⟩ := hlift
        rcases List.mem_cons.1 hmem with rfl | hmem
        · exact absurd (hfirst.symm.trans ht') Bool.false_ne_true
        · exact ⟨t', hmem, ht'⟩
      obtain ⟨n, u, hrun, hu⟩ := ih (s := { s with turns := s.turns.tail, events := events, fi := fi })
        (congrArg List.tail ht) hb hp hwf hf (isHeld_waiting _ fi hheld hevents)
        (fun c hc => hcfg c (List.mem_cons_of_mem _ hc)) hlift'
      exact ⟨n + 1, u, (run_succ_of_step n hstep).trans hrun, hu⟩

/-- Settles O60: a held state that is no hang has a turn left that may lift the hold. -/
theorem holdEndsUnlessHung : Obligations.HoldEndsUnlessHung := by
  intro s hb hp hwf hf hheld hhung hcfg
  have hlift : ∃ t ∈ s.turns, mayLift s t = true := by
    simpa [hung, hheld] using hhung
  exact exists_run_not_held rfl hb hp hwf hf hheld hcfg hlift

end Sys2Proof.Machine
end

section
/-! PROOFS. Every bit pattern is delivered by its event sequence (41_state_machine.md R139, R140): the machine is followed event by
event, with the slots received so far as the invariant. -/

namespace Sys2Proof.Machine

/-! The number of events (R140): one or two for each slot from 2 on. -/

theorem length_slotEvents_bounds (c : Thresholds) (f : Frame) (n k : Nat) (t : Ts) :
    n ≤ (slotEvents c f n k t).length ∧ (slotEvents c f n k t).length ≤ 2 * n := by
  induction n generalizing k t with
  | zero => exact ⟨Nat.le_refl 0, Nat.le_refl 0⟩
  | succ n ih =>
    rw [slotEvents]
    split_ifs
    · have := ih (k + 1) (t + c.oneMin + c.oneMin)
      simp only [List.length_cons]
      omega
    · have := ih (k + 1) (t + c.twoMax)
      simp only [List.length_cons]
      omega

theorem length_frameEvents_bounds (c : Thresholds) (t : Ts) (f : Frame) :
    104 ≤ (frameEvents c t f).length ∧ (frameEvents c t f).length ≤ 206 := by
  have := length_slotEvents_bounds c f 102 2 (t + c.twentyMin + c.twoMax)
  rw [frameEvents, List.length_cons, List.length_cons]
  omega

/-! The events of the sequence and their classes. -/

theorem ofWord_eventAfter (t d : Ts) (level : Bool) :
    Evw.ofWord (eventAfter t d level) = { level := level, ts := t + d } := Evw.ofWord_word _

/-- The class of an event d µs after the previous one is the class of d (R100 to R102). -/
theorem classFor_eventAfter (s : State) (d : Ts) (level : Bool) :
    classFor (Evw.ofWord (eventAfter s.prevTs d level)) s = classOf s.cfg d := by
  rw [ofWord_eventAfter, classFor, BitVec.add_comm, BitVec.add_sub_cancel]

theorem classOf_nominal {c : Thresholds} (hwf : c.wf = true) :
    classOf c c.oneMin = .oneClock ∧ classOf c c.twoMax = .twoClock ∧ classOf c c.twentyMin = .twentyClock := by
  obtain ⟨-, hreached⟩ := everyClassIsReached
  obtain ⟨-, hone, htwo, htwenty, -⟩ := hreached c hwf
  exact ⟨hone, htwo, htwenty⟩

/-! One event of the sequence. -/

/-- The machine with nobody but the decoder to move, nothing wrong, and room for a frame (the hypotheses of R139). -/
structure Undisturbed (s : State) : Prop where
  turns : s.turns = []
  faults : s.faults = []
  wf : s.cfg.wf = true
  room : fifoFull s = false

theorem Undisturbed.accepts {s : State} (h : Undisturbed s) {w : EvWord} {rest : List EvWord}
    (he : s.events = w :: rest) : accepts w s = true :=
  (accepts_iff w s).2 ⟨by rw [decoderMoves, h.turns], ⟨rest, he⟩, h.wf, h.faults, held_of_room _ h.room⟩

/-- The step takes the event offered, d µs after the previous one, and pushes nothing. -/
structure TakesEvent (d : Ts) (rest : List EvWord) (s u : State) : Prop where
  step : step s = .next u
  undisturbed : Undisturbed u
  taken : s.events.length = rest.length + 1
  events : u.events = rest
  cfg : u.cfg = s.cfg
  prevTs : u.prevTs = s.prevTs + d
  outFifo : u.outFifo = s.outFifo
  history : u.history.length = s.history.length + 1

/-- A step that writes, beside what every accepted event changes, only registers of the decoder. -/
theorem Undisturbed.takesEvent {s u : State} {d : Ts} {level : Bool} {rest : List EvWord} {e : Entry}
    (hs : Undisturbed s) (he : s.events = eventAfter s.prevTs d level :: rest) (hstep : step s = .next u)
    (hform : ∃ psm bitCount waitCount frame, u =
      { afterEvent (Evw.ofWord (eventAfter s.prevTs d level)) s u with
        psm := psm, bitCount := bitCount, waitCount := waitCount, frame := frame })
    (hist : u.history = s.history ++ [e]) : TakesEvent d rest s u := by
  obtain ⟨psm, bitCount, waitCount, frame, hu⟩ := hform
  have hturns : u.turns = s.turns.tail := (congrArg State.turns hu :)
  have hevents : u.events = s.events.tail := (congrArg State.events hu :)
  have hfaults : u.faults = s.faults := (congrArg State.faults hu :)
  have hcfg : u.cfg = s.cfg := (congrArg State.cfg hu :)
  have hfull : fifoFull u = fifoFull s := (congrArg fifoFull hu :)
  have hprev : u.prevTs = (Evw.ofWord (eventAfter s.prevTs d level)).ts := (congrArg State.prevTs hu :)
  exact {
    step := hstep
    undisturbed := ⟨by rw [hturns, hs.turns, List.tail_nil], hfaults.trans hs.faults, hcfg ▸ hs.wf, hfull.trans hs.room⟩
    taken := by rw [he, List.length_cons]
    events := by rw [hevents, he, List.tail_cons]
    cfg := hcfg
    prevTs := by rw [hprev, ofWord_eventAfter]
    outFifo := (congrArg State.outFifo hu :)
    history := by rw [hist, List.length_append, List.length_singleton] }

/-! What it is to deliver the frame. -/

/-- Running one step an event takes s to Idle with f at the queue's tail, every event recorded. -/
def Delivers (f : Frame) (s : State) : Prop :=
  ∃ t, Host.Core.run Sys2Proof.core s.events.length s = .next t ∧ t.outFifo = s.outFifo ++ [f] ∧ t.psm = .idle ∧
    t.events = [] ∧ t.bitCount = 0 ∧ t.frame = 0 ∧ t.history.length = s.history.length + s.events.length

theorem TakesEvent.delivers {f : Frame} {d : Ts} {rest : List EvWord} {s u : State} (h : TakesEvent d rest s u)
    (hu : Delivers f u) : Delivers f s := by
  obtain ⟨t, hrun, hq, hp, he, hc, hframe, hist⟩ := hu
  have hlen : s.events.length = u.events.length + 1 := by rw [h.taken, h.events]
  have hhist := h.history
  refine ⟨t, ?_, by rw [hq, h.outFifo], hp, he, hc, hframe, by omega⟩
  rw [hlen, run_succ_of_step _ h.step, hrun]

/-! The slots from 2 on (R139 step 3). -/

/-- In Data, with the slots below k received. -/
structure Receiving (f : Frame) (k : Nat) (s : State) : Prop extends Undisturbed s where
  psm : s.psm = .data
  bitCount : s.bitCount.toNat = k
  slots : ∀ i < k, readSlot s.frame i = f.getLsbD i

/-- With no half bit pending, and the events for n slots from slot k on to come. -/
structure AwaitsSlots (f : Frame) (n k : Nat) (s : State) : Prop extends Receiving f k s where
  waitCount : s.waitCount = false
  events : s.events = slotEvents s.cfg f n k s.prevTs

/-- The bit that a write puts into slot k is the pattern's, if the pattern repeats there or not as the write does. -/
theorem Receiving.newBit_eq {f : Frame} {k : Nat} {flip : Bool} {s : State} (hs : Receiving f k s) (hk : 1 ≤ k)
    (hbit : f.getLsbD k = xor (f.getLsbD (k - 1)) flip) :
    xor (readSlot s.frame (s.bitCount.toNat - 1)) flip = f.getLsbD k := by
  rw [hs.bitCount, hs.slots (k - 1) (by omega), hbit]

/-- The write of a slot below the last. -/
theorem Receiving.append {f : Frame} {n k : Nat} {flip : Bool} {d : Ts} {s : State} (hs : Receiving f k s)
    (hk : 1 ≤ k) (hlast : k ≤ 102) (hwrites : WritesBit flip (classOf s.cfg d) s.waitCount)
    (hbit : f.getLsbD k = xor (f.getLsbD (k - 1)) flip)
    (he : s.events = eventAfter s.prevTs d false :: slotEvents s.cfg f n (k + 1) (s.prevTs + d)) :
    ∃ u, TakesEvent d (slotEvents s.cfg f n (k + 1) (s.prevTs + d)) s u ∧ AwaitsSlots f n (k + 1) u := by
  have hcount := hs.bitCount
  rw [← classFor_eventAfter s d false] at hwrites
  obtain ⟨happend, -⟩ := dataStepWithWrite s _ flip (hs.accepts he) hs.psm (by omega) hwrites
  obtain ⟨u, hstep, hu, hslots, hist⟩ := happend (by omega)
  have htakes := hs.takesEvent he hstep ⟨_, _, _, _, hu⟩ hist
  have hcount' : u.bitCount = s.bitCount + 1 := (congrArg State.bitCount hu :)
  refine ⟨u, htakes, { htakes.undisturbed with psm := ?_, bitCount := ?_, slots := ?_, waitCount := ?_, events := ?_ }⟩
  · exact (congrArg State.psm hu).trans hs.psm
  · rw [hcount', toNat_succ _ (by omega), hcount]
  · intro i hi
    rw [hslots, hs.newBit_eq hk hbit, hcount]
    split_ifs with hik
    · rw [hik]
    · exact hs.slots i (by omega)
  · exact congrArg State.waitCount hu
  · rw [htakes.events, htakes.cfg, htakes.prevTs]

/-- The write of the last slot delivers the frame: its slots are the pattern's. -/
theorem Receiving.complete {f : Frame} {flip : Bool} {d : Ts} {s : State} (hs : Receiving f 103 s)
    (hwrites : WritesBit flip (classOf s.cfg d) s.waitCount)
    (hbit : f.getLsbD 103 = xor (f.getLsbD 102) flip) (he : s.events = [eventAfter s.prevTs d false]) :
    Delivers f s := by
  have hcount := hs.bitCount
  rw [← classFor_eventAfter s d false] at hwrites
  obtain ⟨-, hcomplete⟩ := dataStepWithWrite s _ flip (hs.accepts he) hs.psm (by omega) hwrites
  obtain ⟨g, t, hstep, ht, hslots, hist⟩ := hcomplete hcount
  have hg : g = f := by
    refine BitVec.eq_of_getLsbD_eq fun i hi => ?_
    rw [hslots, hs.newBit_eq (by decide) hbit]
    split_ifs with hlast
    · rw [hlast]
    · exact hs.slots i (by omega)
  have hevents : t.events = s.events.tail := (congrArg State.events ht :)
  refine ⟨t, ?_, ?_, congrArg State.psm ht, by rw [hevents, he, List.tail_cons], congrArg State.bitCount ht,
    congrArg State.frame ht, by rw [hist, he, List.length_append]; rfl⟩
  · rw [he]
    exact run_succ_of_step 0 hstep
  · rw [← hg]
    exact congrArg State.outFifo ht

/-- The first half of a repeated bit (R130). -/
theorem Receiving.half {f : Frame} {k : Nat} {rest : List EvWord} {s : State} (hs : Receiving f k s)
    (hwait : s.waitCount = false) (he : s.events = eventAfter s.prevTs s.cfg.oneMin false :: rest) :
    ∃ u, TakesEvent s.cfg.oneMin rest s u ∧ Receiving f k u ∧ u.waitCount = true := by
  obtain ⟨hone, -, -⟩ := classOf_nominal hs.wf
  obtain ⟨hhalf, -⟩ := dataStepWithoutWrite s _ (hs.accepts he) hs.psm
  obtain ⟨u, hstep, hu, hist⟩ := hhalf ((classFor_eventAfter s _ false).trans hone) hwait
  have htakes := hs.takesEvent he hstep ⟨_, _, _, _, hu⟩ hist
  have hcount : u.bitCount = s.bitCount := (congrArg State.bitCount hu :)
  have hframe : u.frame = s.frame := (congrArg State.frame hu :)
  refine ⟨u, htakes, { htakes.undisturbed with psm := ?_, bitCount := ?_, slots := ?_ }, congrArg State.waitCount hu⟩
  · exact (congrArg State.psm hu).trans hs.psm
  · rw [hcount, hs.bitCount]
  · rw [hframe]
    exact hs.slots

/-- The write of slot k, whichever it is, where the rest of the pattern is delivered. -/
theorem Receiving.delivers_of_write {f : Frame} {n k : Nat} {flip : Bool} {d : Ts} {s : State} (hs : Receiving f k s)
    (hk : 1 ≤ k) (hn : k + n = 103) (hwrites : WritesBit flip (classOf s.cfg d) s.waitCount)
    (hbit : f.getLsbD k = xor (f.getLsbD (k - 1)) flip)
    (he : s.events = eventAfter s.prevTs d false :: slotEvents s.cfg f n (k + 1) (s.prevTs + d))
    (hrest : ∀ u, k + 1 ≤ 103 → AwaitsSlots f n (k + 1) u → Delivers f u) : Delivers f s := by
  rcases Nat.lt_or_ge k 103 with hlt | hge
  · obtain ⟨u, htakes, hu⟩ := hs.append hk (by omega) hwrites hbit he
    exact htakes.delivers (hrest u hlt hu)
  · obtain rfl : k = 103 := by omega
    obtain rfl : n = 0 := by omega
    exact hs.complete hwrites hbit he

/-- By induction on the slots to come: a repeated bit is a half and a write, a changed one is a write. -/
theorem AwaitsSlots.delivers {f : Frame} {n k : Nat} {s : State} (hs : AwaitsSlots f n k s) (hk : 1 ≤ k)
    (hlast : k ≤ 103) (hn : k + n = 104) : Delivers f s := by
  induction n generalizing k s with
  | zero => omega
  | succ n ih =>
    obtain ⟨hone, htwo, -⟩ := classOf_nominal hs.wf
    have hrest : ∀ u, k + 1 ≤ 103 → AwaitsSlots f n (k + 1) u → Delivers f u :=
      fun u hlast' hu => ih hu (by omega) hlast' (by omega)
    have he := hs.events
    rw [slotEvents] at he
    split_ifs at he with hsame
    · obtain ⟨u, htakes, hu, hwait⟩ := hs.half hs.waitCount he
      rw [← htakes.cfg, ← htakes.prevTs] at htakes
      rw [← htakes.cfg] at hone
      have hbit : f.getLsbD k = xor (f.getLsbD (k - 1)) false := by rw [hsame, Bool.xor_false]
      exact htakes.delivers (hu.delivers_of_write hk (by omega) (.inl ⟨hone, hwait, rfl⟩) hbit htakes.events hrest)
    · have hbit : f.getLsbD k = xor (f.getLsbD (k - 1)) true := by
        rw [Bool.xor_true, Bool.eq_not]
        exact hsame
      exact hs.delivers_of_write hk (by omega) (.inr ⟨htwo, hs.waitCount, rfl⟩) hbit he hrest

/-! The two events that lead to Data (R139 steps 1 and 2). -/

/-- The sync marker takes an undisturbed machine from Idle to Preamble, with the counters 0. -/
theorem Undisturbed.sync {s : State} {rest : List EvWord} (hs : Undisturbed s) (hp : s.psm = .idle)
    (he : s.events = eventAfter s.prevTs s.cfg.twentyMin true :: rest) :
    ∃ u, TakesEvent s.cfg.twentyMin rest s u ∧ u.psm = .preamble ∧ u.bitCount = 0 ∧ u.waitCount = false := by
  obtain ⟨-, -, htwenty⟩ := classOf_nominal hs.wf
  obtain ⟨u, hstep, hist, hu⟩ := idleStep s _ (hs.accepts he) hp
  rw [if_pos ⟨(classFor_eventAfter s _ true).trans htwenty, by rw [ofWord_eventAfter]⟩] at hu
  exact ⟨u, hs.takesEvent he hstep ⟨_, _, _, _, hu⟩ hist, congrArg State.psm hu, congrArg State.bitCount hu,
    congrArg State.waitCount hu⟩

/-- The first pair writes slot 1, and takes the machine to Data with slot 2 to be written again (R138). -/
theorem Undisturbed.firstPair {f : Frame} {n : Nat} {s : State} (hs : Undisturbed s) (hp : s.psm = .preamble)
    (hc : s.bitCount = 0) (hwait : s.waitCount = false) (hf : f.getLsbD 0 = false)
    (he : s.events = eventAfter s.prevTs s.cfg.twoMax (f.getLsbD 1) ::
      slotEvents s.cfg f n 2 (s.prevTs + s.cfg.twoMax)) :
    ∃ u, TakesEvent s.cfg.twoMax (slotEvents s.cfg f n 2 (s.prevTs + s.cfg.twoMax)) s u ∧ AwaitsSlots f n 2 u := by
  obtain ⟨-, htwo, -⟩ := classOf_nominal hs.wf
  obtain ⟨u, hstep, hu, hslots, hist⟩ :=
    step_of_preamble_twoClock (hs.accepts he) hp hc ((classFor_eventAfter s _ _).trans htwo)
  have htakes := hs.takesEvent he hstep ⟨_, _, _, _, hu⟩ hist
  have hcount : u.bitCount = 2 := (congrArg State.bitCount hu :)
  refine ⟨u, htakes, { htakes.undisturbed with psm := ?_, bitCount := ?_, slots := ?_, waitCount := ?_, events := ?_ }⟩
  · exact congrArg State.psm hu
  · rw [hcount]
    rfl
  · intro i hi
    obtain rfl | rfl : i = 0 ∨ i = 1 := by omega
    · rw [readSlot_zero, hf]
    · rw [hslots, if_pos rfl, ofWord_eventAfter]
  · exact (congrArg State.waitCount hu).trans hwait
  · rw [htakes.events, htakes.cfg, htakes.prevTs]

/-- Settles O57: the bounds of R140, and the sequence followed through the sync marker, the first pair and the slots from 2 on. -/
theorem everyPatternIsDelivered : Obligations.EveryPatternIsDelivered := by
  intro s f hp hfaults hwf hturns hroom hf he
  have hs : Undisturbed s := ⟨hturns, hfaults, hwf, hroom⟩
  obtain ⟨hlow, hhigh⟩ := length_frameEvents_bounds s.cfg s.prevTs f
  rw [← he] at hlow hhigh
  refine ⟨hlow, hhigh, ?_⟩
  change Delivers f s
  obtain ⟨u, hsync, hpre, hcount, hwait⟩ := hs.sync hp he
  rw [← hsync.cfg, ← hsync.prevTs] at hsync
  obtain ⟨v, hpair, hv⟩ := hsync.undisturbed.firstPair hpre hcount hwait hf hsync.events
  exact hsync.delivers (hpair.delivers (hv.delivers (by decide) (by decide) rfl))

end Sys2Proof.Machine
end

section
/-! PROOFS. The frame interpreter: the packer and its inverse, the digit map, the readings of the two windows
(42_frame_interpreter.md). -/

namespace Sys2Proof.Machine

/-! What the interpreter's operations drive. -/

theorem exec_nibblePack (f : Frame) (s : State) : exec (.nibblePack f) s = .next (drivePacker f s) := rfl

theorem exec_tempDecodeP1 (s : State) : exec .tempDecodeP1 s = .next (driveTemp1 s) := rfl

theorem exec_tempDecodeP2 (s : State) : exec .tempDecodeP2 s = .next (driveTemp2 s) := rfl

theorem exec_fiOutputs (f : Frame) (s : State) :
    exec (.fiOutputs f) s = .next (driveTemp2 (driveTemp1 (drivePacker f s))) := rfl

/-- DIGIT_0 to DIGIT_INVALID together are the digit map (R162 to R167). -/
theorem exec_decodeNib (v : Nib) (s : State) :
    exec (decodeNib v) s = .next (driveDigit (digitMap v).1 (digitMap v).2 s) := by
  unfold decodeNib digitMap
  split_ifs <;> rfl

theorem decodeNib_of_ne {v : Nib} (h5 : v ≠ 5) (h6 : v ≠ 6) (h9 : v ≠ 9) (h10 : v ≠ 10) :
    decodeNib v = .digitInvalid v := by
  rw [decodeNib, if_neg h5, if_neg h6, if_neg h9, if_neg h10]

/-! The nibbles of a frame (R160). -/

theorem toNat_nibble (f : Frame) (n : Nat) :
    (nibble f n).toNat = (f.getLsbD (4 * n)).toNat * 8 + (f.getLsbD (4 * n + 1)).toNat * 4 +
      (f.getLsbD (4 * n + 2)).toNat * 2 + (f.getLsbD (4 * n + 3)).toNat := by
  have h0 := (f.getLsbD (4 * n)).toNat_le
  have h1 := (f.getLsbD (4 * n + 1)).toNat_le
  have h2 := (f.getLsbD (4 * n + 2)).toNat_le
  have h3 := (f.getLsbD (4 * n + 3)).toNat_le
  rw [nibble, BitVec.toNat_ofNat, Nat.mod_eq_of_lt (by omega)]

/-- The bits of a number below 16 written out by its four binary weights. -/
theorem getLsbD_weights : ∀ a b c d : Bool,
    (BitVec.ofNat 4 (a.toNat * 8 + b.toNat * 4 + c.toNat * 2 + d.toNat)).getLsbD 3 = a ∧
    (BitVec.ofNat 4 (a.toNat * 8 + b.toNat * 4 + c.toNat * 2 + d.toNat)).getLsbD 2 = b ∧
    (BitVec.ofNat 4 (a.toNat * 8 + b.toNat * 4 + c.toNat * 2 + d.toNat)).getLsbD 1 = c ∧
    (BitVec.ofNat 4 (a.toNat * 8 + b.toNat * 4 + c.toNat * 2 + d.toNat)).getLsbD 0 = d := by decide

/-- The lowest slot of a group is the most significant bit of its nibble. -/
theorem getLsbD_nibble (f : Frame) (n : Nat) {j : Nat} (hj : j < 4) :
    (nibble f n).getLsbD (3 - j) = f.getLsbD (4 * n + j) := by
  obtain ⟨h3, h2, h1, h0⟩ := getLsbD_weights (f.getLsbD (4 * n)) (f.getLsbD (4 * n + 1)) (f.getLsbD (4 * n + 2))
    (f.getLsbD (4 * n + 3))
  match j, hj with
  | 0, _ => exact h3
  | 1, _ => exact h2
  | 2, _ => exact h1
  | 3, _ => exact h0

/-- Two nibbles with the same bits, from the most significant on. -/
theorem nib_ext {u v : Nib} (h : ∀ j, j < 4 → u.getLsbD (3 - j) = v.getLsbD (3 - j)) : u = v := by
  apply BitVec.eq_of_getLsbD_eq
  intro i hi
  have hj := h (3 - i) (by omega)
  rwa [Nat.sub_sub_self (by omega)] at hj

theorem nibble_congr {f g : Frame} {n : Nat} (h : ∀ j, j < 4 → f.getLsbD (4 * n + j) = g.getLsbD (4 * n + j)) :
    nibble f n = nibble g n :=
  nib_ext fun j hj => by rw [getLsbD_nibble f n hj, getLsbD_nibble g n hj, h j hj]

@[simp] theorem length_nibbles (f : Frame) : (nibbles f).length = 26 := by
  rw [nibbles, List.length_map, List.length_range]

theorem getElem?_nibbles (f : Frame) {n : Nat} (hn : n < 26) : (nibbles f)[n]? = some (nibble f n) := by
  rw [nibbles, List.getElem?_map, List.getElem?_range hn, Option.map_some]

/-! The frame of a nibble sequence (R161). -/

theorem nibble_frameOfNibbles (ns : List Nib) {n : Nat} (hn : n < 26) :
    nibble (frameOfNibbles ns) n = ns.getD n 0 := by
  refine nib_ext fun j hj => ?_
  have hgroup : (4 * n + j) / 4 = n := by omega
  have hplace : (4 * n + j) % 4 = j := by omega
  rw [getLsbD_nibble _ n hj, getLsbD_frameOfNibbles ns _ (by omega), hgroup, hplace]

theorem frameOfNibbles_nibbles (f : Frame) : frameOfNibbles (nibbles f) = f := by
  apply BitVec.eq_of_getLsbD_eq
  intro i hi
  rw [getLsbD_frameOfNibbles _ _ hi, List.getD_eq_getElem?_getD, getElem?_nibbles f (by omega), Option.getD_some,
    getLsbD_nibble f _ (Nat.mod_lt i (by decide)), Nat.div_add_mod]

theorem nibbles_frameOfNibbles {ns : List Nib} (hlen : ns.length = 26) : nibbles (frameOfNibbles ns) = ns := by
  apply List.ext_getElem?
  intro n
  by_cases hn : n < 26
  · rw [getElem?_nibbles _ hn, nibble_frameOfNibbles ns hn, List.getD_eq_getElem _ _ (hlen ▸ hn),
      List.getElem?_eq_getElem]
  · rw [List.getElem?_eq_none (by rw [length_nibbles]; omega), List.getElem?_eq_none (by omega)]

/-- Settles O46: the two inverse laws, and the slots of one nibble. -/
theorem nibblePackIsABijection : Obligations.NibblePackIsABijection :=
  ⟨frameOfNibbles_nibbles, fun _ hlen => nibbles_frameOfNibbles hlen, fun f n _ _ hj => getLsbD_nibble f n hj⟩

/-! A reading as a word (R170, 30_encoding.md R78). -/

theorem reading_eq_weightedSum (f : Frame) (o : Nat) :
    reading f o = digitAt f o 0 * 256 + digitAt f o 1 * 64 + digitAt f o 2 * 16 + digitAt f o 3 * 4 + digitAt f o 4 - 532 :=
  rfl

theorem reading_range (f : Frame) (o : Nat) : -532 ≤ reading f o ∧ reading f o ≤ 491 := by
  have h0 := digitAt_range f o 0
  have h1 := digitAt_range f o 1
  have h2 := digitAt_range f o 2
  have h3 := digitAt_range f o 3
  have h4 := digitAt_range f o 4
  rw [reading_eq_weightedSum]
  omega

/-- No reading is too large for its word: the word is the exact reading. -/
theorem toInt_tempWord (f : Frame) (o : Nat) : (tempWord f o).toInt = reading f o := by
  obtain ⟨hlow, hhigh⟩ := reading_range f o
  rw [tempWord, BitVec.toInt_ofInt, Int.bmod_eq_of_le (by omega) (by omega)]

/-- Settles O48: for each probe the word is the exact reading and the error bit is that of its window. -/
theorem tempDecodeResults : Obligations.TempDecodeResults := fun s =>
  ⟨⟨tempWord s.fi.frame 8, tempErr s.fi.frame 8, exec_tempDecodeP1 s, toInt_tempWord s.fi.frame 8,
      tempErr_iff s.fi.frame 8⟩,
    ⟨tempWord s.fi.frame 13, tempErr s.fi.frame 13, exec_tempDecodeP2 s, toInt_tempWord s.fi.frame 13,
      tempErr_iff s.fi.frame 13⟩⟩

/-! What the readings depend on (R172, R173). -/

/-- Two frames have the same five nibbles in the window that begins at nibble o. -/
def SameWindow (f g : Frame) (o : Nat) : Prop := ∀ k, k < 5 → nibble f (o + k) = nibble g (o + k)

theorem sameWindow_of_slots {f g : Frame} {o : Nat}
    (h : ∀ i, 4 * o ≤ i → i < 4 * o + 20 → f.getLsbD i = g.getLsbD i) : SameWindow f g o := fun _ _ =>
  nibble_congr fun _ _ => h _ (by omega) (by omega)

theorem SameWindow.digitAt_eq {f g : Frame} {o k : Nat} (h : SameWindow f g o) (hk : k < 5) :
    digitAt f o k = digitAt g o k := by
  rw [digitAt, h k hk, digitAt]

theorem SameWindow.reading_eq {f g : Frame} {o : Nat} (h : SameWindow f g o) : reading f o = reading g o := by
  rw [reading_eq_weightedSum f, reading_eq_weightedSum g, h.digitAt_eq (by decide), h.digitAt_eq (by decide),
    h.digitAt_eq (by decide), h.digitAt_eq (by decide), h.digitAt_eq (by decide)]

theorem SameWindow.tempWord_eq {f g : Frame} {o : Nat} (h : SameWindow f g o) : tempWord f o = tempWord g o := by
  rw [tempWord, h.reading_eq, tempWord]

theorem SameWindow.tempErr_eq {f g : Frame} {o : Nat} (h : SameWindow f g o) : tempErr f o = tempErr g o := by
  rw [Bool.eq_iff_iff]
  simp only [tempErr, List.any_eq_true, List.mem_range, invalidAt]
  exact exists_congr fun k => and_congr_right fun hk => by rw [h k hk]

/-- Settles O50: each probe's outputs are functions of its window's nibbles, and these of the window's 20 slots. -/
theorem fiReadsOnlyItsWindows : Obligations.FiReadsOnlyItsWindows := by
  have hprobe1 : ∀ f g : Frame, (∀ i, 32 ≤ i → i ≤ 51 → f.getLsbD i = g.getLsbD i) → SameWindow f g 8 :=
    fun f g h => sameWindow_of_slots fun i hlow hhigh => h i hlow (by omega)
  have hprobe2 : ∀ f g : Frame, (∀ i, 52 ≤ i → i ≤ 71 → f.getLsbD i = g.getLsbD i) → SameWindow f g 13 :=
    fun f g h => sameWindow_of_slots fun i hlow hhigh => h i hlow (by omega)
  refine ⟨fun f g h => ?_, fun f g h => ?_, fun f g h => ?_⟩
  · exact ⟨(hprobe1 f g h).tempWord_eq, (hprobe1 f g h).tempErr_eq⟩
  · exact ⟨(hprobe2 f g h).tempWord_eq, (hprobe2 f g h).tempErr_eq⟩
  · have h1 := hprobe1 f g fun i hlow hhigh => h i hlow (by omega)
    have h2 := hprobe2 f g fun i hlow hhigh => h i (by omega) hhigh
    rw [readingsOf, h1.tempWord_eq, h1.tempErr_eq, h2.tempWord_eq, h2.tempErr_eq, readingsOf]

/-! Every value of the range has exactly one digit vector (R171). -/

/-- The valid nibble of a base-4 digit: the inverse of the digit map (30_encoding.md R76). -/
def nibOfDigit (d : BitVec 2) : Nib := if d = 0 then 5 else if d = 1 then 6 else if d = 2 then 9 else 10

theorem digitMap_nibOfDigit : ∀ d : BitVec 2, digitMap (nibOfDigit d) = (d, false) := by decide

/-- A frame whose window at nibble o holds the five base-4 digits of u, the most significant first. -/
def frameOfValue (o u : Nat) : Frame :=
  frameOfNibbles ((List.range 26).map fun n => nibOfDigit (BitVec.ofNat 2 (u / 4 ^ (o + 4 - n))))

theorem digitMap_nibble_frameOfValue (o u : Nat) {n : Nat} (hn : n < 26) :
    digitMap (nibble (frameOfValue o u) n) = (BitVec.ofNat 2 (u / 4 ^ (o + 4 - n)), false) := by
  rw [frameOfValue, nibble_frameOfNibbles _ hn, List.getD_eq_getElem?_getD, List.getElem?_map, List.getElem?_range hn,
    Option.map_some, Option.getD_some, digitMap_nibOfDigit]

theorem digitAt_frameOfValue {o : Nat} (u : Nat) {k : Nat} (hk : o + k < 26) :
    digitAt (frameOfValue o u) o k = (u / 4 ^ (4 - k) % 4 : Nat) := by
  rw [digitAt, digitMap_nibble_frameOfValue o u hk, BitVec.toNat_ofNat, Nat.add_sub_add_left]

theorem reading_frameOfValue {o u : Nat} (ho : o + 4 < 26) (hu : u < 1024) :
    reading (frameOfValue o u) o = (u : Int) - 532 := by
  rw [reading_eq_weightedSum, digitAt_frameOfValue u (by omega), digitAt_frameOfValue u (by omega),
    digitAt_frameOfValue u (by omega), digitAt_frameOfValue u (by omega), digitAt_frameOfValue u (by omega)]
  simp only [Nat.reduceSub, Nat.reducePow]
  omega

theorem tempErr_frameOfValue {o : Nat} (u : Nat) (ho : o + 4 < 26) : tempErr (frameOfValue o u) o = false := by
  rw [Bool.eq_false_iff, ne_eq, tempErr_iff]
  rintro ⟨n, -, hn, hinvalid⟩
  rw [digitMap_nibble_frameOfValue o u (by omega)] at hinvalid
  exact Bool.false_ne_true hinvalid

/-- A base-4 numeral has one digit vector. -/
theorem digitAt_eq_of_reading_eq {f g : Frame} {o : Nat} (h : reading f o = reading g o) {k : Nat} (hk : k < 5) :
    digitAt f o k = digitAt g o k := by
  have h0 := And.intro (digitAt_range f o 0) (digitAt_range g o 0)
  have h1 := And.intro (digitAt_range f o 1) (digitAt_range g o 1)
  have h2 := And.intro (digitAt_range f o 2) (digitAt_range g o 2)
  have h3 := And.intro (digitAt_range f o 3) (digitAt_range g o 3)
  have h4 := And.intro (digitAt_range f o 4) (digitAt_range g o 4)
  rw [reading_eq_weightedSum, reading_eq_weightedSum] at h
  match k, hk with
  | 0, _ | 1, _ | 2, _ | 3, _ | 4, _ => omega

/-- Settles O51: `frameOfValue` gives a frame for every value. -/
theorem readingRange : Obligations.ReadingRange := by
  intro off hoff
  refine ⟨fun f => reading_range f off, fun v hlow hhigh => ?_, fun f g h k hk => digitAt_eq_of_reading_eq h hk⟩
  have hwindow : off + 4 < 26 := by omega
  refine ⟨frameOfValue off (v + 532).toNat, ?_, tempErr_frameOfValue _ hwindow⟩
  rw [reading_frameOfValue hwindow (by omega)]
  omega

/-! The high bits of a reading's word (R170, R171; assumption 25). -/

/-- Bit i of a reading's word, in plain numbers. -/
theorem getLsbD_tempWord (f : Frame) (o i : Nat) :
    (tempWord f o).getLsbD i = decide ((reading f o % 65536).toNat / 2 ^ i % 2 = 1) := by
  rw [tempWord, ← BitVec.testBit_toNat, BitVec.toNat_ofInt, Nat.testBit_eq_decide_div_mod_eq]
  rfl

/-- A reading needs 11 bits: from bit 10 up its word holds the sign. -/
theorem getLsbD_tempWord_sign (f : Frame) (o : Nat) {i : Nat} (hlow : 10 ≤ i) (hhigh : i ≤ 15) :
    (tempWord f o).getLsbD i = decide (reading f o < 0) := by
  obtain ⟨hmin, hmax⟩ := reading_range f o
  rw [getLsbD_tempWord, decide_eq_decide]
  interval_cases i <;> omega

/-- Bit 9 is the sign too, but for the readings that 10 bits do not hold. -/
theorem getLsbD_tempWord_nine (f : Frame) (o : Nat) :
    (tempWord f o).getLsbD 9 = decide (-512 ≤ reading f o ∧ reading f o < 0) := by
  obtain ⟨hmin, hmax⟩ := reading_range f o
  rw [getLsbD_tempWord, decide_eq_decide]
  omega

/-- Settles O52: bits 10 to 15 are the sign, and bit 9 differs from it below -512 only. -/
theorem readingWordHighBits : Obligations.ReadingWordHighBits := by
  intro f off
  have hten := getLsbD_tempWord_sign f off (i := 10) (by decide) (by decide)
  refine ⟨fun i hlow hhigh => ?_, ?_⟩
  · rw [getLsbD_tempWord_sign f off (by omega) hhigh, hten]
  · rw [hten, getLsbD_tempWord_nine, decide_eq_decide]
    omega

/-! The results of the operations. -/

/-- Settles O45: the packer drives `nibbles`, whose nibble n is that of slots 4n to 4n + 3. -/
theorem nibblePackResult : Obligations.NibblePackResult := fun f s =>
  ⟨nibbles f, exec_nibblePack f s, length_nibbles f, fun n hn => ⟨nibble f n, getElem?_nibbles f hn, toNat_nibble f n⟩⟩

/-- Settles O47: each operation drives its constants, and `exec_decodeNib` ties them to the digit map. -/
theorem digitOperationResults : Obligations.DigitOperationResults :=
  ⟨fun _ => ⟨rfl, rfl, rfl, rfl, fun _ => rfl⟩, rfl, rfl, rfl, rfl, fun _ => decodeNib_of_ne, exec_decodeNib⟩

/-- Settles O49: the three operations drive the same functions of the frame. -/
theorem fiOutputsResult : Obligations.FiOutputsResult := fun f s =>
  ⟨_, _, _, exec_fiOutputs f s, exec_tempDecodeP1 _, exec_tempDecodeP2 _, rfl⟩

end Sys2Proof.Machine
end

section
/-! PROOFS. The report and the strobes of a decoder step, and what an error changes (60_exceptions.md R200 to R205, R215). -/

namespace Sys2Proof.Machine

/-! The report of a step (R202). -/

/-- Where the step on an accepted event answers, its operation has answered. -/
theorem exec_of_step {w : EvWord} {s t : State} (hacc : accepts w s = true) (h : step s = .next t) :
    ∃ u, exec (selected (Evw.ofWord w) s) (sensed (Evw.ofWord w) s) = .next u ∧
      t = leaveStep (Evw.ofWord w) (selected (Evw.ofWord w) s) u := by
  rw [step_of_accepts_eq hacc, andThen_eq_next] at h
  obtain ⟨u, hx, ht⟩ := h
  exact ⟨u, hx, (Host.Outcome.next.inj ht).symm⟩

/-- The report of an operation that runs at `BIT_COUNT` = n and does not hold. -/
def reportOf (i : Instr) (n : Nat) : EvStatus :=
  match i with
  | .preError _ _ _ => .preambleError
  | .dataPairError _ => .dataError
  | .dataClassError _ _ _ => .dataError
  | .dataRepeat _ => if n = 103 then .frameDone else .none
  | .dataToggle _ => if n = 103 then .frameDone else .none
  | _ => .none

theorem reportOf_bitWriteOp (flip edge : Bool) (n : Nat) :
    reportOf (bitWriteOp flip edge) n = if n = 103 then .frameDone else .none := by
  cases flip <;> rfl

theorem reportOf_eq_preambleError (i : Instr) (n : Nat) :
    reportOf i n = .preambleError ↔ ∃ c e k, i = .preError c e k := by
  cases i <;> simp [reportOf, ite_eq_iff]

theorem reportOf_eq_dataError (i : Instr) (n : Nat) :
    reportOf i n = .dataError ↔ (∃ e, i = .dataPairError e) ∨ ∃ c e k, i = .dataClassError c e k := by
  cases i <;> simp [reportOf, ite_eq_iff]

theorem reportOf_eq_frameDone (i : Instr) (n : Nat) :
    reportOf i n = .frameDone ↔ ((∃ e, i = .dataRepeat e) ∨ ∃ e, i = .dataToggle e) ∧ n = 103 := by
  cases i <;> simp [reportOf]

theorem exec_bitWriteOp_fault (flip edge : Bool) {s : State} (h : s.bitCount.toNat = 0 ∨ 104 ≤ s.bitCount.toNat) :
    exec (bitWriteOp flip edge) s = .fault (.noSuchSlot s.bitCount) := by
  cases flip
  · exact exec_dataRepeat_fault edge h
  · exact exec_dataToggle_fault edge h

/-- A bit write reports the frame it completes, and nothing else; where its slots do not exist it does not answer. -/
theorem exec_bitWriteOp_status {flip edge : Bool} {s u : State} (hs : s.wires.status = .none)
    (hroom : s.bitCount.toNat = 103 → fifoFull s = false) (h : exec (bitWriteOp flip edge) s = .next u) :
    u.wires.status = reportOf (bitWriteOp flip edge) s.bitCount.toNat := by
  rw [reportOf_bitWriteOp]
  by_cases hout : s.bitCount.toNat = 0 ∨ 104 ≤ s.bitCount.toNat
  · cases (exec_bitWriteOp_fault flip edge hout).symm.trans h
  by_cases hlast : s.bitCount.toNat = 103
  · cases (exec_bitWriteOp_of_room flip edge hlast (hroom hlast)).symm.trans h
    rw [if_pos hlast]
    rfl
  · cases (exec_bitWriteOp_of_lt flip edge (by omega) (by omega)).symm.trans h
    rw [if_neg hlast]
    exact hs

/-- An operation of the PSM that begins with nothing reported ends with its report. -/
theorem exec_rowOf_status {p : Psm} {i : Instr} {s u : State} (hi : RowOf p i) (hs : s.wires.status = .none)
    (hroom : ∀ flip e, i = bitWriteOp flip e → s.bitCount.toNat = 103 → fifoFull s = false)
    (h : exec i s = .next u) : u.wires.status = reportOf i s.bitCount.toNat := by
  cases hi with
  | idleSync wait => cases h; exact hs
  | idleStay cls edge wait => cases h; exact hs
  | preFirstPair edge wait => obtain ⟨-, -, rfl⟩ := (execPreFirstPair_eq_next edge wait s u).1 h; exact hs
  | preHalf wait => cases h; exact hs
  | preResync wait => cases h; exact hs
  | preError cls edge wait => cases h; rfl
  | dataHalf edge => cases h; exact hs
  | dataRepeat edge => exact exec_bitWriteOp_status (flip := false) hs (hroom false edge rfl) h
  | dataToggle edge => exact exec_bitWriteOp_status (flip := true) hs (hroom true edge rfl) h
  | dataPairError edge => cases h; rfl
  | dataClassError cls edge wait => cases h; rfl
  | reservedState cls edge wait => cases h; exact hs

/-- The step on an accepted event adds one entry, with the report of the operation selected. -/
theorem step_history {w : EvWord} {s t : State} (hacc : accepts w s = true) (h : step s = .next t) :
    t.history = s.history ++
      [entryFor (Evw.ofWord w) s (reportOf (selected (Evw.ofWord w) s) s.bitCount.toNat)] := by
  obtain ⟨u, hx, rfl⟩ := exec_of_step hacc h
  have hroom : ∀ flip e, selected (Evw.ofWord w) s = bitWriteOp flip e → s.bitCount.toNat = 103 → fifoFull s = false :=
    fun _ _ => fifoFull_of_accepts hacc
  have hstatus : u.wires.status = reportOf (selected (Evw.ofWord w) s) s.bitCount.toNat :=
    exec_rowOf_status (s := sensed (Evw.ofWord w) s) (selected_rowOf (Evw.ofWord w) s) rfl hroom hx
  rw [← hstatus]
  exact (step_of_exec hacc rfl hx).2

/-- Settles O30: `step_history`, and which operations `reportOf` gives each report. -/
theorem oneReportPerStep : Obligations.OneReportPerStep := fun _ _ _ hacc h =>
  ⟨_, step_history hacc h, reportOf_eq_preambleError _ _, reportOf_eq_dataError _ _, reportOf_eq_frameDone _ _⟩

/-! The errors (R205). -/

/-- An operation whose report is an error does nothing but take it. -/
theorem exec_of_reportOf_error {i : Instr} {n : Nat} (s : State)
    (h : reportOf i n = .preambleError ∨ reportOf i n = .dataError) :
    exec i s = .next (takeError (reportOf i n) s) := by
  rw [reportOf_eq_preambleError, reportOf_eq_dataError] at h
  rcases h with ⟨c, e, k, rfl⟩ | ⟨e, rfl⟩ | ⟨c, e, k, rfl⟩
  · exact exec_preError c e k s
  · exact exec_dataPairError e s
  · exact exec_dataClassError c e k s

/-- Settles O31: the entry's report is that of the operation selected, so the operation took the error. -/
theorem errorChangesOnlyState : Obligations.ErrorChangesOnlyState := by
  intro s t w st hacc h hist herror
  have hentry := List.append_cancel_left (hist.symm.trans (step_history hacc h))
  have hst : st = reportOf (selected (Evw.ofWord w) s) s.bitCount.toNat :=
    congrArg Entry.status (List.singleton_inj.1 hentry)
  rw [hst] at herror
  obtain ⟨u, hx, rfl⟩ := exec_of_step hacc h
  cases (exec_of_reportOf_error (sensed (Evw.ofWord w) s) herror).symm.trans hx
  rfl

/-! The strobes (R215). -/

/-- Settles O32: the end of a step lowers both strobes, and its entry is `entryFor` the event. -/
theorem strobesOfAStep : Obligations.StrobesOfAStep := by
  intro s t w hacc h
  have hist := step_history hacc h
  obtain ⟨u, -, rfl⟩ := exec_of_step hacc h
  exact ⟨rfl, rfl, _, hist, rfl⟩

/-! The error bits of the readings (R203). -/

/-- The digit map's invalid bit (42_frame_interpreter.md R167). -/
theorem digitMap_invalid_iff (v : Nib) : (digitMap v).2 = true ↔ v ≠ 5 ∧ v ≠ 6 ∧ v ≠ 9 ∧ v ≠ 10 := by
  unfold digitMap
  split_ifs with h5 h6 h9 h10
  case neg => exact iff_of_true rfl ⟨h5, h6, h9, h10⟩
  all_goals simp [*]

theorem tempErr_iff_nibble (f : Frame) (o : Nat) : tempErr f o = true ↔ ∃ n, o ≤ n ∧ n ≤ o + 4 ∧
    nibble f n ≠ 5 ∧ nibble f n ≠ 6 ∧ nibble f n ≠ 9 ∧ nibble f n ≠ 10 := by
  simp only [tempErr_iff, digitMap_invalid_iff]

/-- Settles O53: the two windows begin at nibbles 8 and 13. -/
theorem digitDecodeErrorPerProbe : Obligations.DigitDecodeErrorPerProbe := fun f =>
  ⟨tempErr_iff_nibble f 8, tempErr_iff_nibble f 13⟩

end Sys2Proof.Machine
end

section
/-! PROOFS. What stops the machine and what does not: the wait for an event, the model fault, and the progress of every other turn
(60_exceptions.md R206, R207, R217, 70_reset_and_hazards.md R231). -/

namespace Sys2Proof.Machine

/-! The wait for an event (R217). -/

theorem decoderTurn_of_no_event {s : State} (he : s.events = []) : decoderTurn s = .next s :=
  (decoderTurn_eq_next s s).2 (.inl ⟨rfl, fun _ _ h => absurd (he.symm.trans h) (List.cons_ne_nil _ _).symm⟩)

/-- A fault stops the machine only on an event offered. -/
theorem lastTurn_of_no_event {s : State} (he : s.events = []) : lastTurn s = guardLaunch s (decoderTurn s) := by
  rw [lastTurn, he, List.isEmpty_nil, Bool.not_true, Bool.and_false, if_neg Bool.false_ne_true]

/-- Settles O35: the decoder waits on a turn of its own, and also where no turn is left. -/
theorem decoderWaitsForAnEvent : Obligations.DecoderWaitsForAnEvent := by
  intro s hm hwf he
  cases ht : s.turns with
  | nil =>
    have hsame : { s with turns := ([] : List Turn).tail } = s := by rw [List.tail_nil, ← ht]
    rw [hsame, step, turnStep, ht]
    exact (lastTurn_of_no_event he).trans ((guardLaunch_of_wf hwf _).trans (decoderTurn_of_no_event he))
  | cons t rest =>
    cases t <;> simp only [decoderMoves, ht, Bool.false_eq_true] at hm
    rw [step_of_turn ht]
    exact (guardLaunch_of_wf hwf _).trans (decoderTurn_of_no_event he)

/-! The model fault (R207). -/

theorem enabled_of_fault (ev : Evw) {s : State} (hf : s.faults ≠ []) : enabled ev s = false := by
  rw [enabled, List.isEmpty_eq_false_iff.2 hf, Bool.false_and]

theorem lastTurn_of_fault {s : State} (hf : s.faults ≠ []) (he : s.events ≠ []) :
    lastTurn s = guardLaunch s (.fault .reservedState) := by
  rw [lastTurn, List.isEmpty_eq_false_iff.2 hf, List.isEmpty_eq_false_iff.2 he]
  rfl

theorem exec_consumer_faults {w : ConsumerWord} {s t : State} (h : exec (decodeConsumer w) s = .next t) :
    t.faults = s.faults := by
  obtain ⟨q, p, fi, -, rfl⟩ := exec_consumer_frame h
  rfl

/-- With a fault recorded the decoder takes no event, and only the reset removes the fault. -/
theorem step_of_fault {s t : State} (hf : s.faults ≠ []) (h : step s = .next t)
    (hreset : ∀ rest, s.turns ≠ .reset :: rest) :
    t.faults = s.faults ∧ s.events <+: t.events ∧ t.history = s.history := by
  have consumer {w : ConsumerWord} {rest : List Turn}
      (hx : exec (decodeConsumer w) { s with turns := rest } = .next t) :
      t.faults = s.faults ∧ s.events <+: t.events ∧ t.history = s.history := by
    obtain ⟨hhist, hevents⟩ := exec_consumer_events_history hx
    have hfaults : t.faults = s.faults := (exec_consumer_faults hx :)
    exact ⟨hfaults, by rw [hevents], hhist⟩
  rcases step_cases s t h with ⟨rest, ht, -⟩ | ⟨c, rest, -, -, -, rfl⟩ | ⟨w, rest, -, -, rfl⟩ |
    ⟨w, rest, -, -, hx⟩ | ⟨rest, -, -, hx⟩ | ⟨-, -, ⟨rfl, -⟩ | ⟨w, rest, -, hen, -⟩⟩
  · exact absurd ht (hreset rest)
  · exact ⟨rfl, List.prefix_rfl, rfl⟩
  · exact ⟨rfl, List.prefix_append s.events [w], rfl⟩
  · exact consumer hx
  · exact consumer (w := .fiOutputs s.fi.frame) hx
  · exact ⟨rfl, List.prefix_rfl, rfl⟩
  · exact absurd ((enabled_of_fault _ hf).symm.trans hen) Bool.false_ne_true

/-- Settles O42: `step_of_fault`; a run that is over has no fault; an offered event meets the fault in `lastTurn`. -/
theorem faultStopsTheDecoder : Obligations.FaultStopsTheDecoder := by
  refine ⟨fun _ _ => step_of_fault, fun s hf => ?_, fun s hf hwf ht he => ?_⟩
  · refine Bool.eq_false_of_not_eq_true fun hover => ?_
    obtain ⟨-, -, -, hempty⟩ := (runOver_iff s).1 hover
    exact hf hempty
  · rw [step, turnStep, ht]
    exact (lastTurn_of_fault hf he).trans (guardLaunch_of_wf hwf _)

/-! Progress (R206). -/

/-- Under the invariants every operation of the state's rows answers: the slots it writes exist. -/
theorem exec_rowOf_answers {p : Psm} {i : Instr} {s : State} (hi : RowOf p i) (hp : s.psm = p) (hs : Invariants s) :
    ∃ t, exec i s = .next t := by
  obtain ⟨-, -, hpre, hdata, -⟩ := hs
  cases hi with
  | idleSync wait => exact ⟨_, exec_idleSync wait s⟩
  | idleStay cls edge wait => exact ⟨_, exec_idleStay cls edge wait s⟩
  | preFirstPair edge wait =>
    have hcount : s.bitCount.toNat ≤ 101 := by rw [(hpre hp).1]; decide
    exact ⟨_, exec_preFirstPair_of_le edge wait hcount⟩
  | preHalf wait => exact ⟨_, exec_preHalf wait s⟩
  | preResync wait => exact ⟨_, exec_preResync wait s⟩
  | preError cls edge wait => exact ⟨_, exec_preError cls edge wait s⟩
  | dataHalf edge => exact ⟨_, exec_dataHalf edge s⟩
  | dataRepeat edge => exact ⟨_, exec_dataRepeat_eq hdata hp edge⟩
  | dataToggle edge => exact ⟨_, exec_dataToggle_eq hdata hp edge⟩
  | dataPairError edge => exact ⟨_, exec_dataPairError edge s⟩
  | dataClassError cls edge wait => exact ⟨_, exec_dataClassError cls edge wait s⟩
  | reservedState cls edge wait => exact ⟨_, exec_reservedState cls edge wait s⟩

theorem decoderStep_answers (ev : Evw) {s : State} (hs : Invariants s) : ∃ t, decoderStep ev s = .next t := by
  obtain ⟨u, hx⟩ := exec_rowOf_answers (s := { s with prevTs := ev.ts, wires := stepWires ev s })
    (selected_rowOf ev s) rfl hs
  exact ⟨_, (decoderStep_eq_next ev s _).2 ⟨u, hx, rfl⟩⟩

theorem decoderTurn_answers {s : State} (hs : Invariants s) : ∃ t, decoderTurn s = .next t := by
  cases he : s.events with
  | nil => exact ⟨s, decoderTurn_of_no_event he⟩
  | cons w rest =>
    rw [decoderTurn, he]
    cases hen : enabled (Evw.ofWord w) s
    · exact ⟨s, if_neg (by simp [hen])⟩
    · obtain ⟨t, ht⟩ := decoderStep_answers (Evw.ofWord w) (s := { s with events := rest }) hs
      exact ⟨t, (if_pos hen).trans ht⟩

theorem exec_consumer_answers (w : ConsumerWord) (s : State) : ∃ t, exec (decodeConsumer w) s = .next t := by
  by_cases hw : w = .pop
  · subst hw
    exact ⟨popFrame s, rfl⟩
  · obtain ⟨fi, hx⟩ := exec_interpreter s hw
    exact ⟨_, hx⟩

/-- Settles O33: the turns of the edge source, the consumer and the host's reset always answer, and the decoder's does under the
invariants. -/
theorem noOperationStopsTheMachine : Obligations.NoOperationStopsTheMachine := by
  intro s hs hwf hcfg
  have decoder (hm : decoderMoves s = true) : ∃ t, step s = .next t := by
    obtain ⟨-, -, -, -, -, -, hf⟩ := id hs
    obtain ⟨t, ht⟩ := decoderTurn_answers (s := { s with turns := s.turns.tail }) hs
    exact ⟨t, (step_of_decoderMoves hm hf).trans ((guardLaunch_of_wf hwf _).trans ht)⟩
  cases ht : s.turns with
  | nil => exact decoder (by rw [decoderMoves, ht])
  | cons t rest =>
    cases t with
    | decoder => exact decoder (by rw [decoderMoves, ht])
    | offer w => exact ⟨_, step_of_offer ht hwf⟩
    | consumer w =>
      obtain ⟨u, hx⟩ := exec_consumer_answers w { s with turns := rest }
      exact ⟨u, (step_of_consumer ht hwf).trans hx⟩
    | interpret => exact ⟨_, (step_of_interpret ht hwf).trans (exec_fiOutputs _ _)⟩
    | reset => exact ⟨_, step_of_reset ht⟩
    | cfg c => exact absurd ht (hcfg c rest)

end Sys2Proof.Machine
end

section
/-! PROOFS. What RESET leaves, and the end of a run (70_reset_and_hazards.md R230, R240). -/

namespace Sys2Proof.Machine

/-! RESET (R230). -/

theorem exec_reset (s : State) : exec .reset s = .next (resetCore s) := rfl

/-- Settles O43: RESET always answers `resetCore`, whose `PREV_TS` is the draw. -/
theorem resetResult : Obligations.ResetResult := fun s => ⟨resetCore s, exec_reset s, rfl⟩

/-! A run that is over (R240). -/

/-- Where the edge source has no event left before the next reset, a turn that is no reset is no offer, and the plans behind it
hold no such event either. -/
theorem offersLeft_cons_eq_false {t : Turn} {rest : List Turn} (h : offersLeft (t :: rest) = false) (ht : t ≠ .reset) :
    t.isOffer = false ∧ offersLeft rest = false := by
  have hreset : t.isReset = false := by
    cases t with
    | reset => exact absurd rfl ht
    | _ => rfl
  simpa [offersLeft, hreset] using h

/-- The queue being empty, there is nothing to pop: a consumer's operation only drives the FI's ports (assumption 13). -/
theorem exec_consumer_of_empty {w : ConsumerWord} {s t : State} (hq : s.outFifo = [])
    (h : exec (decodeConsumer w) s = .next t) : ∃ fi, t = { s with fi := fi } := by
  rcases exec_consumer_next w s t h with rfl | ht
  · exact ⟨s.fi, popFrame_nil s hq⟩
  · exact ⟨t.fi, ht⟩

/-- After the end of a run a step but the reset uses up a turn, and may set `CFG` or drive the FI's ports. -/
theorem step_of_runOver {s t : State} (hover : runOver s = true) (h : step s = .next t)
    (hreset : s.turns.head? ≠ some .reset) : ∃ cfg fi, t = { s with turns := s.turns.tail, cfg := cfg, fi := fi } := by
  obtain ⟨hevents, hoffers, hqueue, -⟩ := (runOver_iff s).1 hover
  have consumer {w : ConsumerWord} {u : Turn} {rest : List Turn} (ht : s.turns = u :: rest)
      (hx : exec (decodeConsumer w) { s with turns := rest } = .next t) :
      ∃ cfg fi, t = { s with turns := s.turns.tail, cfg := cfg, fi := fi } := by
    obtain ⟨fi, rfl⟩ := exec_consumer_of_empty (s := { s with turns := rest }) hqueue hx
    exact ⟨s.cfg, fi, by rw [ht, List.tail_cons]⟩
  rcases step_cases s t h with ⟨rest, ht, -⟩ | ⟨c, rest, ht, -, -, rfl⟩ | ⟨w, rest, ht, -, -⟩ |
    ⟨w, rest, ht, -, hx⟩ | ⟨rest, ht, -, hx⟩ | ⟨-, -, ⟨rfl, -⟩ | ⟨w, rest, he, -, -⟩⟩
  · exact absurd (congrArg List.head? ht) hreset
  · exact ⟨c, s.fi, by rw [ht, List.tail_cons]⟩
  · rw [ht] at hoffers
    exact absurd (offersLeft_cons_eq_false hoffers Turn.noConfusion).1.symm Bool.false_ne_true
  · exact consumer ht hx
  · exact consumer (w := .fiOutputs s.fi.frame) ht hx
  · exact ⟨s.cfg, s.fi, rfl⟩
  · exact absurd (hevents.symm.trans he) (List.cons_ne_nil w rest).symm

/-- Using up a turn that is no reset does not bring the run back, and neither `CFG` nor the FI plays a part in its end. -/
theorem runOver_of_turn {s : State} (cfg : Thresholds) (fi : FiPorts) (hover : runOver s = true)
    (hreset : s.turns.head? ≠ some .reset) :
    runOver { s with turns := s.turns.tail, cfg := cfg, fi := fi } = true := by
  obtain ⟨hevents, hoffers, hqueue, hfaults⟩ := (runOver_iff s).1 hover
  refine (runOver_iff _).2 ⟨hevents, ?_, hqueue, hfaults⟩
  cases ht : s.turns with
  | nil => rfl
  | cons t rest =>
    rw [ht] at hoffers hreset
    exact (offersLeft_cons_eq_false hoffers fun h => hreset (congrArg some h)).2

/-- Settles O59: `step_of_runOver` names all that can change, and none of it belongs to the decoder, the queue or the
observation. -/
theorem endedRunStaysEnded : Obligations.EndedRunStaysEnded := by
  intro s t hover h hreset
  obtain ⟨-, -, hqueue, -⟩ := (runOver_iff s).1 hover
  obtain ⟨cfg, fi, rfl⟩ := step_of_runOver hover h hreset
  exact ⟨runOver_of_turn cfg fi hover hreset, ⟨rfl, rfl, rfl, rfl, rfl⟩, hqueue, rfl⟩

end Sys2Proof.Machine
end
